-- ==== Sys2Proof/Word.lean ====
section
/-! DEFINITION. The word types of the PACAL 4-bit core (00_scope.md R7, R9): a data word is a nibble, an
instruction word has 16 bits, bit 0 is the least significant bit of each. -/

namespace Sys2Proof

/-- A data word, a register, a bus address, a program counter: 4 bits (R7). -/
abbrev Nibble := BitVec 4

/-- An instruction word (R68): 16 bits, bit 15 the most significant. -/
abbrev Word := BitVec 16

/-- Program text, a path, a label's name: a list of characters. -/
abbrev Text := List Char

end Sys2Proof
end

