-- ==== Sys2Proof/Syntax.lean ====
section
/-! DEFINITION. The instruction set: one constructor of `Instr` for every row of spec/opcode_table.json
(30_encoding.md R74), and the names that decoding, the hazard check and the text form use. -/

namespace Sys2Proof

/-- The four general registers (10_state.md R16, 30_encoding.md R71). -/
inductive Reg where
  | r0 | r1 | r2 | r3
  deriving DecidableEq, Repr, Inhabited

/-- The operations of the ALU (40_alu.md R88), also what its operation latch holds (10_state.md R34). -/
inductive AluOp where
  | add | sub | mul | and | or | xor | cmp
  deriving DecidableEq, Repr, Inhabited

/-- The instructions. A name that ends in `R` is the register form (M = 0), one that ends in `I` the
immediate, direct or absolute form (M = 1), as 30_encoding.md R72 says. The operand of `irq` is the whole
IMM field: `Instr.wellFormed` says that it is a line number (R70). -/
inductive Instr where
  | nop
  | addR (ra rb : Reg)
  | addI (ra : Reg) (imm : Nibble)
  | subR (ra rb : Reg)
  | subI (ra : Reg) (imm : Nibble)
  | mulR (ra rb : Reg)
  | mulI (ra : Reg) (imm : Nibble)
  | andR (ra rb : Reg)
  | andI (ra : Reg) (imm : Nibble)
  | orR (ra rb : Reg)
  | orI (ra : Reg) (imm : Nibble)
  | xorR (ra rb : Reg)
  | xorI (ra : Reg) (imm : Nibble)
  | cmpR (ra rb : Reg)
  | cmpI (ra : Reg) (imm : Nibble)
  | movR (ra rb : Reg)
  | movI (ra : Reg) (imm : Nibble)
  | loadR (ra rb : Reg)
  | loadI (ra : Reg) (imm : Nibble)
  | storeR (ra rb : Reg)
  | storeI (ra : Reg) (imm : Nibble)
  | jmpR (rb : Reg)
  | jmpI (imm : Nibble)
  | jzR (rb : Reg)
  | jzI (imm : Nibble)
  | jnzR (rb : Reg)
  | jnzI (imm : Nibble)
  | jcR (rb : Reg)
  | jcI (imm : Nibble)
  | callR (rb : Reg)
  | callI (imm : Nibble)
  | ret
  | iret
  | hlt
  | irq (n : Nibble)
  deriving DecidableEq, Repr

/-- What the decode and execute latches hold (30_encoding.md R76): an instruction, an illegal word, or the
END marker, which only a fetch produces. -/
inductive Decoded where
  | insn (i : Instr)
  | illegal (w : Word)
  | endMark
  deriving DecidableEq, Repr

/-- What a fetch gives (20_memory.md R41): an instruction word, or END at or past the program's length. -/
inductive Fetched where
  | word (w : Word)
  | endMark
  deriving DecidableEq, Repr

/-- The `kind` of a decoded instruction (30_encoding.md R76): its mnemonic. -/
inductive Kind where
  | nop | add | sub | mul | and | or | xor | cmp | mov | load | store
  | jmp | jz | jnz | jc | call | ret | iret | hlt | irq
  deriving DecidableEq, Repr

/-- The `form` of a two-form instruction (30_encoding.md R76). -/
inductive Form where
  | reg | imm
  deriving DecidableEq, Repr

/-- The decoded record's `kind` (R76). -/
def Instr.kind : Instr → Kind
  | .nop => .nop
  | .addR _ _ => .add | .addI _ _ => .add
  | .subR _ _ => .sub | .subI _ _ => .sub
  | .mulR _ _ => .mul | .mulI _ _ => .mul
  | .andR _ _ => .and | .andI _ _ => .and
  | .orR _ _ => .or | .orI _ _ => .or
  | .xorR _ _ => .xor | .xorI _ _ => .xor
  | .cmpR _ _ => .cmp | .cmpI _ _ => .cmp
  | .movR _ _ => .mov | .movI _ _ => .mov
  | .loadR _ _ => .load | .loadI _ _ => .load
  | .storeR _ _ => .store | .storeI _ _ => .store
  | .jmpR _ => .jmp | .jmpI _ => .jmp
  | .jzR _ => .jz | .jzI _ => .jz
  | .jnzR _ => .jnz | .jnzI _ => .jnz
  | .jcR _ => .jc | .jcI _ => .jc
  | .callR _ => .call | .callI _ => .call
  | .ret => .ret
  | .iret => .iret
  | .hlt => .hlt
  | .irq _ => .irq

/-- The decoded record's `form` (R76), for the instructions that have two forms. -/
def Instr.form : Instr → Option Form
  | .nop => none
  | .addR _ _ => some .reg | .addI _ _ => some .imm
  | .subR _ _ => some .reg | .subI _ _ => some .imm
  | .mulR _ _ => some .reg | .mulI _ _ => some .imm
  | .andR _ _ => some .reg | .andI _ _ => some .imm
  | .orR _ _ => some .reg | .orI _ _ => some .imm
  | .xorR _ _ => some .reg | .xorI _ _ => some .imm
  | .cmpR _ _ => some .reg | .cmpI _ _ => some .imm
  | .movR _ _ => some .reg | .movI _ _ => some .imm
  | .loadR _ _ => some .reg | .loadI _ _ => some .imm
  | .storeR _ _ => some .reg | .storeI _ _ => some .imm
  | .jmpR _ => some .reg | .jmpI _ => some .imm
  | .jzR _ => some .reg | .jzI _ => some .imm
  | .jnzR _ => some .reg | .jnzI _ => some .imm
  | .jcR _ => some .reg | .jcI _ => some .imm
  | .callR _ => some .reg | .callI _ => some .imm
  | .ret => none
  | .iret => none
  | .hlt => none
  | .irq _ => none

/-- `IsMemSrc` of the source's record: true exactly for `load` (R76). -/
def Instr.isMemSrc (i : Instr) : Bool := i.kind == .load

/-- `IsMemDest` of the source's record: true exactly for `store` (R76). -/
def Instr.isMemDest (i : Instr) : Bool := i.kind == .store

/-- Why the assembler rejects program text before any word reaches IMEM (30_encoding.md R81 to R84,
60_exceptions.md R121). -/
inductive ParseError where
  /-- The first word of an item is no mnemonic (R81). -/
  | unknownMnemonic
  /-- The number of operands is not the mnemonic's (R81). -/
  | operandCount
  /-- `r` followed by digits that name none of r0 to r3 (R82). -/
  | unknownRegister
  /-- A literal outside 0..15, or outside 0..3 for `irq` (R83). -/
  | outOfRange
  /-- An operand that has no allowed shape (R82). -/
  | badOperand
  /-- An operand whose shape is not allowed in its position (R82). -/
  | wrongPosition
  /-- More than 16 instructions (R84). -/
  | tooLong
  deriving DecidableEq, Repr

/-- The assembler's errors (60_exceptions.md R121). -/
inductive AsmError where
  | parse (why : ParseError)
  | resolution (name : Text)
  deriving DecidableEq, Repr

end Sys2Proof
end

