-- ==== Sys2Proof/Machine/Flags.lean ====
section
/-! DEFINITION. The ALU's functions of two nibbles: the ripple-carry adder (40_alu.md R87) and, for each
operation, its result and the flags C and Z (R90 to R96). -/

namespace Sys2Proof.Machine

/-- The sum bit of a 1-bit full adder: `a ^ b ^ c` (R87, 93 G1). -/
def fullAdderSum (a b c : Bool) : Bool := (a ^^ b) ^^ c

/-- The carry of a 1-bit full adder: `(a & b) | (c & (a ^ b))` (R87, 93 G2). -/
def fullAdderCarry (a b c : Bool) : Bool := (a && b) || (c && (a ^^ b))

/-- A nibble from its bits, bit 3 first (00_scope.md R9). -/
def nibbleOfBits (b3 b2 b1 b0 : Bool) : Nibble :=
  BitVec.ofBool b3 ++ BitVec.ofBool b2 ++ BitVec.ofBool b1 ++ BitVec.ofBool b0

/-- `Adder(a, b, cin) -> (s, cout)` (R87): four full adders, each carry-out feeding the next bit's carry-in. -/
def adder (a b : Nibble) (cin : Bool) : Nibble × Bool :=
  let c1 := fullAdderCarry (a.getLsbD 0) (b.getLsbD 0) cin
  let c2 := fullAdderCarry (a.getLsbD 1) (b.getLsbD 1) c1
  let c3 := fullAdderCarry (a.getLsbD 2) (b.getLsbD 2) c2
  let c4 := fullAdderCarry (a.getLsbD 3) (b.getLsbD 3) c3
  (nibbleOfBits
      (fullAdderSum (a.getLsbD 3) (b.getLsbD 3) c3)
      (fullAdderSum (a.getLsbD 2) (b.getLsbD 2) c2)
      (fullAdderSum (a.getLsbD 1) (b.getLsbD 1) c1)
      (fullAdderSum (a.getLsbD 0) (b.getLsbD 0) cin),
    c4)

/-- `PC.Increment()` (10_state.md R24): the adder with b = 0000 and carry-in 1, its carry-out discarded. -/
def pcIncrement (pc : Nibble) : Nibble := (adder pc 0 true).1

/-- What an ALU operation gives: "each is a function `(a, b) -> (result, C, Z)`" (R88). -/
structure AluResult where
  result : Nibble
  carry : Bool
  zero : Bool
  deriving DecidableEq, Repr

/-- add (R90). -/
def aluAdd (a b : Nibble) : AluResult :=
  let r := adder a b false
  { result := r.1, carry := r.2, zero := r.1 == 0 }

/-- sub (R91): `a + ~b + 1`, C the NOT of the raw carry-out. -/
def aluSub (a b : Nibble) : AluResult :=
  let r := adder a (~~~b) true
  { result := r.1, carry := !r.2, zero := r.1 == 0 }

/-- mul (R92): the 8-bit product; Z is computed on the full product. -/
def aluMul (a b : Nibble) : AluResult :=
  let p : BitVec 8 := a.setWidth 8 * b.setWidth 8
  { result := p.setWidth 4, carry := decide (15 < p.toNat), zero := p == 0 }

/-- and (R93). -/
def aluAnd (a b : Nibble) : AluResult :=
  { result := a &&& b, carry := false, zero := a &&& b == 0 }

/-- or (R94). -/
def aluOr (a b : Nibble) : AluResult :=
  { result := a ||| b, carry := false, zero := a ||| b == 0 }

/-- xor (R95). -/
def aluXor (a b : Nibble) : AluResult :=
  { result := a ^^^ b, carry := false, zero := a ^^^ b == 0 }

/-- cmp (R96): a subtract; its caller discards the result. -/
def aluCmp (a b : Nibble) : AluResult :=
  let r := adder a (~~~b) true
  { result := r.1, carry := !r.2, zero := r.1 == 0 }

/-- The ALU (R88). -/
def alu : AluOp → Nibble → Nibble → AluResult
  | .add => aluAdd
  | .sub => aluSub
  | .mul => aluMul
  | .and => aluAnd
  | .or => aluOr
  | .xor => aluXor
  | .cmp => aluCmp

end Sys2Proof.Machine
end

