-- ==== Sys2Proof/Config.lean ====
section
/-! DEFINITION. What an implementation fixes (00_scope.md R8) and the free values: constants without a body,
so that no proof can see what they are (93_implementation_defined.md I1 to I4, I7). -/

namespace Sys2Proof

/-- The parameters of 00_scope.md R8. The instruction width and the number of IMEM words are fixed there. -/
structure Params where
  romSize : Nat
  ramSize : Nat
  keyStatus : Nibble
  keyData : Nibble
  charOut : Nibble
  callDepth : Nat
  settleTicks : Nat
  deriving DecidableEq, Repr

/-- The constraints of R8 on the parameters. -/
def Params.valid (p : Params) : Bool :=
  decide (p.romSize ≤ 2) && decide (p.romSize < 3) && decide (3 ≤ p.romSize + p.ramSize) &&
    decide (p.romSize + p.ramSize ≤ 16) && decide (p.keyStatus ≠ p.keyData) &&
    decide (p.keyStatus ≠ p.charOut) && decide (p.keyData ≠ p.charOut) && decide (1 ≤ p.callDepth)

/-- SETTLE_TICKS: "OPEN, no default" (R8, 92_eei_decisions.md D24). DESIGN CHOICE: a free value (log 4). Safe. -/
opaque Config.settleTicks : Nat

/-- The `n`th nibble drawn: what a read of a floating register gives (10_state.md R19), the seed of a register
and the operand latches after reset (R38, R34). DESIGN CHOICE: a free value (log 3, log 8). Safe. -/
opaque Config.draw : Nat → Nibble

/-- The ALU's operation latch after a reset (10_state.md R34, R38). DESIGN CHOICE: a free value (log 8). Safe. -/
opaque Config.drawAluOp : Nat → AluOp

/-- A RAM cell at power-on: "any value per cell, fixed once drawn" (93 I2). DESIGN CHOICE: a free value (log 5).
Safe. -/
opaque Config.ramPowerOn : Nat → Nibble

/-- A ROM cell at power-on, before any load (93 I3). DESIGN CHOICE: a free value (log 5). Safe. -/
opaque Config.romPowerOn : Nat → Nibble

/-- An IMEM word at power-on, before any load (93 I3). DESIGN CHOICE: a free value (log 5). Safe. -/
opaque Config.imemPowerOn : Nat → Word

/-- The defaults of R8: the only values 95_test_vectors.md uses. -/
def Config.params : Params where
  romSize := 2
  ramSize := 10
  keyStatus := 13
  keyData := 14
  charOut := 15
  callDepth := 16
  settleTicks := Config.settleTicks

end Sys2Proof
end

