-- ==== Sys2Proof/Machine/State.lean ====
section
/-! DEFINITION. The machine's state as plain data: every piece of state spec/10_state.md gives the core, its two
memories, its configuration, and, at the boundary the spec gives them, the terminal, the assembler's label table,
the persisted documents and the host's pending actions. -/

namespace Sys2Proof.Machine

/-- One general register (10_state.md R18): its flip-flops, and whether it still floats after a reset. -/
structure RegCell where
  val : Nibble
  floating : Bool
  deriving DecidableEq, Repr

/-- The register file (10_state.md R16): four registers, no alias, none hard-wired. -/
structure RegFile where
  r0 : RegCell
  r1 : RegCell
  r2 : RegCell
  r3 : RegCell
  deriving DecidableEq, Repr

/-- The interrupt controller's state (10_state.md R31). Bit `i` of `mask` and `status` is line `i`;
`savedCarry` and `savedZero` are `savedFlags`. -/
structure InterruptState where
  mask : BitVec 4
  status : BitVec 4
  enabled : Bool
  inHandler : Bool
  savedPc : Nibble
  savedCarry : Bool
  savedZero : Bool
  deriving DecidableEq, Repr

/-- The fault codes of the fault latch (60_exceptions.md R118). They are values of a register, not outcomes of
a step: a faulting instruction has a next state (R119). -/
inductive FaultCode where
  /-- 0: no fault. -/
  | none
  /-- 1: an illegal word executed (R117). -/
  | unknownOpcode
  /-- 2: `ret` on an empty call stack (R111). -/
  | stackUnderflow
  /-- 3: `call` on a full call stack (R110). -/
  | stackOverflow
  /-- 4: `ret` to an address outside the loaded program (R111). -/
  | returnOutOfRange
  /-- 5: `iret` with no active handler (R115). -/
  | iretOutsideHandler
  deriving DecidableEq, Repr

/-- The F latch (70_reset_and_hazards.md R142). -/
structure FetchEntry where
  pc : Nibble
  word : Fetched
  deriving DecidableEq, Repr

/-- The D latch (R142). -/
structure DecodeEntry where
  pc : Nibble
  insn : Decoded
  deriving DecidableEq, Repr

/-- The X latch (R142): `ops` "holds the values of the registers in `srcs(I)`". -/
structure ExecuteEntry where
  pc : Nibble
  insn : Decoded
  ops : List (Reg × Nibble)
  deriving DecidableEq, Repr

/-- A memory of `w`-bit cells: (index, content) pairs, indices strictly rising, one for every cell that a
program or the host has written. A cell that is not listed still holds its power-on content (log 5). -/
abbrev Mem (w : Nat) := List (Nat × BitVec w)

/-- The persisted-state record (70_reset_and_hazards.md R159), its numbers unchecked as a file holds them.
`callStack` lists entries oldest first; the last seven fields are the interrupt state. -/
structure Doc where
  registers : List Nat
  pc : Nat
  memory : List Nat
  labels : List (Text × Nat)
  callStack : List Nat
  flagZero : Bool
  flagCarry : Bool
  irqMask : Nat
  irqStatus : Nat
  enabled : Bool
  inHandler : Bool
  savedPc : Nat
  savedCarry : Bool
  savedZero : Bool
  deriving DecidableEq, Repr

/-- The inspection commands (70_reset_and_hazards.md R161). -/
inductive Query where
  | regs
  | mem
  | memRange (lo hi : Nibble)
  deriving DecidableEq, Repr

/-- The host commands with no effect on the core (70_reset_and_hazards.md R151, last row). -/
inductive OtherCommand where
  | help | perf | shell | pipeline
  deriving DecidableEq, Repr

/-- What an agent outside the core can do to it, one atomic action each (70_reset_and_hazards.md R150, R151;
a key arrival: 20_memory.md R63). -/
inductive Event where
  | reset
  | loadProgram (words : List Word) (n : Nat)
  | loadText (text : Text)
  | loadRom (cells : List Nibble)
  | run
  | stop
  | tick
  | step
  /-- `exec(I)`, the shell mode (R156). -/
  | direct (i : Instr)
  | raiseIrq (line : BitVec 2)
  | setIrqMask (m : BitVec 4)
  | setIrqEnabled (e : Bool)
  /-- `writeFails`: the file cannot be written (R159, "A failure to write is an IOError"). -/
  | save (path : Text) (writeFails : Bool)
  | loadState (path : Text)
  | inspect (q : Query)
  | other (c : OtherCommand)
  | key (k : Nibble)
  deriving DecidableEq, Repr

/-- What the last host action answered (R151, R159 to R161). The model's own field (log 11). -/
inductive Reply where
  | none
  | ok
  /-- "A precondition that fails makes the operation a host-level error" (R151). -/
  | preconditionFailed
  | ioError
  | asmError (e : AsmError)
  | registers (cells : List (Nibble × Bool))
  | cells (values : List Nibble)
  deriving DecidableEq, Repr

/-- How a step could end the run. There is none: every fault of the spec (60_exceptions.md R118, R119) latches
its code and has a next state, and no access is to an address that does not exist (20_memory.md R44, R45, R57).
So no instruction and no event raises one (log 19). -/
inductive Fault : Type
  deriving DecidableEq, Repr

/-- Why a step could refuse. No instruction and no event refuses (log 19). -/
inductive Refusal where
  /-- An instruction whose arm of `exec` gives it no meaning yet: raised by `exec` only, for no instruction
  now. Safe: nothing is claimed of such an instruction. -/
  | notModelled (mnemonic : String)
  deriving DecidableEq, Repr

/-- The machine. -/
@[ext]
structure State where
  /-- R16, R18. -/
  regs : RegFile
  /-- The settle counter (R18, R21). -/
  settle : Nat
  /-- R23: the next instruction's address under Step, the fetch address under Tick. -/
  pc : Nibble
  /-- C (R26). -/
  carry : Bool
  /-- Z (R26). -/
  zero : Bool
  /-- The call stack, newest entry first (R29). -/
  callStack : List Nibble
  /-- R31. -/
  intr : InterruptState
  /-- R32. -/
  running : Bool
  /-- R33. -/
  fault : FaultCode
  /-- R33. -/
  faultPc : Nibble
  /-- F (R36, R142). -/
  fetchL : Option FetchEntry
  /-- D (R36, R142). -/
  decodeL : Option DecodeEntry
  /-- X (R36, R142). -/
  executeL : Option ExecuteEntry
  /-- The ALU's first operand latch (R34). -/
  aluA : Nibble
  /-- The ALU's second operand latch (R34). -/
  aluB : Nibble
  /-- The ALU's operation latch (R34). -/
  aluOp : AluOp
  /-- 20_memory.md R39. -/
  imem : Mem 16
  /-- PROG_LEN (20_memory.md R40). -/
  progLen : Nat
  /-- 20_memory.md R46. -/
  rom : Mem 4
  /-- 20_memory.md R47. -/
  ram : Mem 4
  /-- The terminal's buffered keys, oldest first (20_memory.md R50, R51). -/
  keys : List Nibble
  /-- The nibbles the terminal has received, oldest first (20_memory.md R52). -/
  display : List Nibble
  /-- The assembler's label table (70 R159). -/
  labels : List (Text × Nibble)
  /-- The persisted documents by path (70 R159, R160). -/
  files : List (Text × Doc)
  /-- The actions of the host and the terminal still to come, in order (70 R150). The model's own (log 2). -/
  events : List Event
  /-- The model's own (log 11). -/
  reply : Reply
  /-- 00_scope.md R8. No step changes it (log 6). -/
  cfg : Params
  /-- How many free values have been drawn. The model's own (log 3). -/
  draws : Nat
  deriving DecidableEq, Repr

/-- The machine right after reset (10_state.md R38), its memories as at power-on, no action pending. The
registers' seeds and the ALU's latches are free values (log 3, log 8); a register floats unless SETTLE_TICKS
is 0 (R139). The fields of the outside agents are empty (log 18, DESIGN CHOICE, unsafe). -/
def State.reset : State where
  regs :=
    { r0 := ⟨Config.draw 0, !(Config.settleTicks == 0)⟩
      r1 := ⟨Config.draw 1, !(Config.settleTicks == 0)⟩
      r2 := ⟨Config.draw 2, !(Config.settleTicks == 0)⟩
      r3 := ⟨Config.draw 3, !(Config.settleTicks == 0)⟩ }
  settle := Config.settleTicks
  pc := 0
  carry := false
  zero := false
  callStack := []
  intr :=
    { mask := 0, status := 0, enabled := false, inHandler := false
      savedPc := 0, savedCarry := false, savedZero := false }
  running := false
  fault := .none
  faultPc := 0
  fetchL := none
  decodeL := none
  executeL := none
  aluA := Config.draw 4
  aluB := Config.draw 5
  aluOp := Config.drawAluOp 6
  imem := []
  progLen := 0
  rom := []
  ram := []
  keys := []
  display := []
  labels := []
  files := []
  events := []
  reply := .none
  cfg := Config.params
  draws := 7

end Sys2Proof.Machine
end

