-- ==== Sys2Proof/Machine/Ops.lean ====
section
/-! DEFINITION. The named operations over registers, memories, the program counter, the call stack, the fault
latch and the interrupt controller. Taking a fault (60_exceptions.md R119), taking an interrupt (R127) and the
return from one (R131) are one shared operation each. -/

namespace Sys2Proof.Machine

/-! Registers (10_state.md section 1). -/

/-- The cell of a register. -/
def RegFile.get (f : RegFile) : Reg → RegCell
  | .r0 => f.r0
  | .r1 => f.r1
  | .r2 => f.r2
  | .r3 => f.r3

/-- The register file with one cell replaced. -/
def RegFile.set (f : RegFile) (r : Reg) (c : RegCell) : RegFile :=
  match r with
  | .r0 => { f with r0 := c }
  | .r1 => { f with r1 := c }
  | .r2 => { f with r2 := c }
  | .r3 => { f with r3 := c }

/-- What reading a cell gives when `n` free values have been drawn (R19): its contents, or, while it floats,
"an arbitrary nibble, drawn fresh on every read". -/
def RegCell.read (c : RegCell) (n : Nat) : Nibble := if c.floating then Config.draw n else c.val

/-- The free values drawn after a cell is read: one more if it floats. -/
def RegCell.drawsAfter (c : RegCell) (n : Nat) : Nat := n + c.floating.toNat

/-- The operand that an entry of X holds for a register (70_reset_and_hazards.md R142), if it holds one. -/
def lookupOperand : List (Reg × Nibble) → Reg → Option Nibble
  | [], _ => none
  | (q, v) :: ops, r => if q = r then some v else lookupOperand ops r

/-- The value the X latch holds for a register, if X holds an entry that read it. -/
def State.latched (s : State) (r : Reg) : Option Nibble :=
  match s.executeL with
  | some e => lookupOperand e.ops r
  | none => none

/-- `x[r]` inside an instruction (00_scope.md R12): under Tick, `X.ops[r]` (70 R143); under Step, the register
read now (R19). Log 9. -/
def State.regValue (s : State) (r : Reg) : Nibble :=
  match s.latched r with
  | some v => v
  | none => (s.regs.get r).read s.draws

/-- The free values drawn after an instruction reads a register. -/
def State.regDraws (s : State) (r : Reg) : Nat :=
  match s.latched r with
  | some _ => s.draws
  | none => (s.regs.get r).drawsAfter s.draws

/-- The state after an instruction reads a register: "The read does not change `val[i]`" (R19). -/
def State.afterRead (s : State) (r : Reg) : State := { s with draws := s.regDraws r }

/-- `x[i] <- v` (R20): the value is set and the register floats no more. -/
def State.writeReg (s : State) (r : Reg) (v : Nibble) : State :=
  { s with regs := s.regs.set r ⟨v, false⟩ }

/-- The values of the registers listed, read in order from a register file (70 R143, step 4), with the number
of free values drawn afterwards. -/
def readOperands (f : RegFile) : List Reg → Nat → List (Reg × Nibble) × Nat
  | [], n => ([], n)
  | r :: rs, n =>
    let rest := readOperands f rs ((f.get r).drawsAfter n)
    ((r, (f.get r).read n) :: rest.1, rest.2)

/-- The cell of a register once it floats no more (R21). -/
def RegCell.settled (c : RegCell) (stop : Bool) : RegCell := { c with floating := c.floating && !stop }

/-- `SettleTick()` (R21): the counter falls by one if it is not zero; at zero every register stops floating. -/
def State.settleTick (s : State) : State :=
  { s with
    settle := s.settle - 1
    regs :=
      { r0 := s.regs.r0.settled (s.settle - 1 == 0)
        r1 := s.regs.r1.settled (s.settle - 1 == 0)
        r2 := s.regs.r2.settled (s.settle - 1 == 0)
        r3 := s.regs.r3.settled (s.settle - 1 == 0) } }

/-! Memories (20_memory.md). -/

/-- What has been written to a cell, if anything has. -/
def Mem.lookup {w : Nat} : Mem w → Nat → Option (BitVec w)
  | [], _ => none
  | (b, u) :: m, a => if a = b then some u else Mem.lookup m a

/-- The memory with one cell written: its entry is replaced, or put in its place in the rising order. -/
def Mem.write {w : Nat} : Mem w → Nat → BitVec w → Mem w
  | [], a, v => [(a, v)]
  | (b, u) :: m, a, v =>
    if a < b then (a, v) :: (b, u) :: m
    else if a = b then (a, v) :: m
    else (b, u) :: Mem.write m a v

/-- The cells `a`, `a + 1`, ... written with the values listed. -/
def Mem.writeAll {w : Nat} : Mem w → Nat → List (BitVec w) → Mem w
  | m, _, [] => m
  | m, a, v :: vs => Mem.writeAll (Mem.write m a v) (a + 1) vs

/-- The entries' indices rise strictly, from `lo` on, and stay below `bound`. -/
def Mem.risingFrom {w : Nat} (bound : Nat) : Nat → Mem w → Bool
  | _, [] => true
  | lo, (a, _) :: m => decide (lo ≤ a) && decide (a < bound) && Mem.risingFrom bound (a + 1) m

/-- The one canonical form of a memory of `bound` cells (log 5). -/
def Mem.wf {w : Nat} (bound : Nat) (m : Mem w) : Bool := Mem.risingFrom bound 0 m

/-- `ROM[i]` (R46). -/
def State.romCell (s : State) (i : Nat) : Nibble := (s.rom.lookup i).getD (Config.romPowerOn i)

/-- `RAM[i]` (R47). -/
def State.ramCell (s : State) (i : Nat) : Nibble := (s.ram.lookup i).getD (Config.ramPowerOn i)

/-- `IMEM[i]` (R39). -/
def State.imemWord (s : State) (i : Nat) : Word := (s.imem.lookup i).getD (Config.imemPowerOn i)

/-- `Fetch(a)` (R41): the word inside the loaded program, else END. -/
def State.fetch (s : State) (a : Nibble) : Fetched :=
  if a.toNat < s.progLen then .word (s.imemWord a.toNat) else .endMark

/-- What an address of the data bus names (R43). -/
inductive Region where
  | keyStatus
  | keyData
  | charOut
  | rom (index : Nat)
  | ram (index : Nat)
  | unmapped
  deriving DecidableEq, Repr

/-- The bus decoder (R43): "in this fixed order, and the first match wins". -/
def busRegion (p : Params) (a : Nibble) : Region :=
  if a = p.keyStatus then .keyStatus
  else if a = p.keyData then .keyData
  else if a = p.charOut then .charOut
  else if a.toNat < p.romSize then .rom a.toNat
  else if a.toNat < p.romSize + p.ramSize then .ram (a.toNat - p.romSize)
  else .unmapped

/-- `Terminal.keyAvailable()` as KEY_STATUS shows it (R50): the flag in bit 0. -/
def State.keyStatusValue (s : State) : Nibble := if s.keys.isEmpty then 0 else 1

/-- The nibble `Terminal.readKey()` answers (R51): the oldest key, or 0000 when no key is buffered. -/
def State.keyDataValue (s : State) : Nibble := s.keys.headD 0

/-- The nibble `MemRead(a, 1)` returns (R44). -/
def State.busValue (s : State) (a : Nibble) : Nibble :=
  match busRegion s.cfg a with
  | .keyStatus => s.keyStatusValue
  | .keyData => s.keyDataValue
  | .charOut => 0
  | .rom i => s.romCell i
  | .ram i => s.ramCell i
  | .unmapped => 0

/-- The key buffer after a read of an address: a KEY_DATA read removes the oldest key (R51, R59). -/
def State.keysAfterRead (s : State) (a : Nibble) : List Nibble :=
  match busRegion s.cfg a with
  | .keyData => s.keys.tail
  | .keyStatus => s.keys
  | .charOut => s.keys
  | .rom _ => s.keys
  | .ram _ => s.keys
  | .unmapped => s.keys

/-- The state after `MemRead(a, 1)` (R44, R59). -/
def State.afterBusRead (s : State) (a : Nibble) : State := { s with keys := s.keysAfterRead a }

/-- The RAM after `MemWrite(a, 1, v)` (R45). -/
def State.ramAfterWrite (s : State) (a v : Nibble) : Mem 4 :=
  match busRegion s.cfg a with
  | .ram i => s.ram.write i v
  | .keyStatus => s.ram
  | .keyData => s.ram
  | .charOut => s.ram
  | .rom _ => s.ram
  | .unmapped => s.ram

/-- What the terminal has received after `MemWrite(a, 1, v)` (R45, R52). -/
def State.displayAfterWrite (s : State) (a v : Nibble) : List Nibble :=
  match busRegion s.cfg a with
  | .charOut => s.display ++ [v]
  | .keyStatus => s.display
  | .keyData => s.display
  | .rom _ => s.display
  | .ram _ => s.display
  | .unmapped => s.display

/-- `MemWrite(a, 1, v)` (R45): RAM, or the terminal; every other write is ignored. -/
def State.busWrite (s : State) (a v : Nibble) : State :=
  { s with ram := s.ramAfterWrite a v, display := s.displayAfterWrite a v }

/-- The ROM or RAM cell at a bus address, or 0000 at a device or unmapped address, without any side effect
(70 R159 `Memory[a]`, R161). -/
def State.peek (s : State) (a : Nibble) : Nibble :=
  match busRegion s.cfg a with
  | .rom i => s.romCell i
  | .ram i => s.ramCell i
  | .keyStatus => 0
  | .keyData => 0
  | .charOut => 0
  | .unmapped => 0

/-! The program counter and the pipeline's latches. -/

/-- The executing instruction's own address (00_scope.md R12): X's under Tick (70 R143), `pc` under Step. -/
def State.ownPc (s : State) : Nibble :=
  match s.executeL with
  | some e => e.pc
  | none => s.pc

/-- `F, D, X <- empty`. -/
def State.flush (s : State) : State := { s with fetchL := none, decodeL := none, executeL := none }

/-- Whether F, D and X are all empty. -/
def State.latchesEmpty (s : State) : Bool :=
  s.fetchL.isNone && s.decodeL.isNone && s.executeL.isNone

/-- `next` (00_scope.md R12): under Step, `pc <- (pc + 1) mod 16`; under Tick, where the fetch moves `pc`, the
entry of X retires (70 R143, `X <- empty`). -/
def State.next (s : State) : State :=
  { s with
    pc := if s.executeL.isSome then s.pc else pcIncrement s.pc
    executeL := none }

/-- `pc <- target` (00_scope.md R12), with the squash of a taken transfer under Tick (70 R143). -/
def State.jumpTo (s : State) (t : Nibble) : State :=
  { s with pc := t, fetchL := none, decodeL := none, executeL := none }

/-- `halt` (00_scope.md R12, 43_system.md R113, R116): `pc` is left at the instruction's own address. -/
def State.halt (s : State) : State :=
  { s with running := false, pc := s.ownPc, fetchL := none, decodeL := none, executeL := none }

/-- Taking a fault (60_exceptions.md R119): the code and the address are latched, the core stops, `pc` is left
at the instruction and the latches are emptied. -/
def State.raise (s : State) (c : FaultCode) : State :=
  { s with
    fault := c, faultPc := s.ownPc, running := false, pc := s.ownPc
    fetchL := none, decodeL := none, executeL := none }

/-! The call stack (10_state.md R30). -/

/-- `len(callStack) == CALL_DEPTH`, or more. -/
def State.stackFull (s : State) : Bool := decide (s.cfg.callDepth ≤ s.callStack.length)

/-- `Push(v)`. -/
def State.push (s : State) (v : Nibble) : State := { s with callStack := v :: s.callStack }

/-- `Pop()`, the entry discarded. -/
def State.pop (s : State) : State := { s with callStack := s.callStack.tail }

/-! Interrupts (60_exceptions.md section 2). -/

/-- The lines that are requested and unmasked (R123; "Pending interrupts", 10_state.md R37). -/
def State.armed (s : State) : BitVec 4 := s.intr.status &&& s.intr.mask

/-- `IrqPending` (R123). -/
def State.irqPending (s : State) : Bool := s.intr.enabled && !s.intr.inHandler && s.armed != 0

/-- The lowest-numbered line of a set (R125); 3 when lines 0 to 2 are not in it. -/
def lowestLine (lines : BitVec 4) : BitVec 2 :=
  if lines.getLsbD 0 then 0 else if lines.getLsbD 1 then 1 else if lines.getLsbD 2 then 2 else 3

/-- The set that holds one line. -/
def lineBit (i : BitVec 2) : BitVec 4 := 1#4 <<< i.toNat

/-- `OldestPC` (R126). -/
def State.oldestPc (s : State) : Nibble :=
  match s.executeL with
  | some e => e.pc
  | none =>
    match s.decodeL with
    | some e => e.pc
    | none =>
      match s.fetchL with
      | some e => e.pc
      | none => s.pc

/-- The vector of line `i`: `zext_4(i) << 2` (R127). -/
def irqVector (i : BitVec 2) : Nibble := i.setWidth 4 <<< 2

/-- Taking interrupt `i` (R127). -/
def State.takeLine (s : State) (i : BitVec 2) : State :=
  { s with
    intr :=
      { s.intr with
        savedPc := s.oldestPc, savedCarry := s.carry, savedZero := s.zero, inHandler := true
        status := s.intr.status &&& ~~~lineBit i }
    pc := irqVector i
    fetchL := none, decodeL := none, executeL := none }

/-- Taking the interrupt that is due: the lowest armed line (R125, R127). -/
def State.takeIrq (s : State) : State := s.takeLine (lowestLine s.armed)

/-- `irqStatus[i] <- 1` (43_system.md R114, 70 R157). -/
def State.requestLine (s : State) (i : BitVec 2) : State :=
  { s with intr := { s.intr with status := s.intr.status ||| lineBit i } }

/-- The return from an interrupt (43_system.md R115, 60 R131): the saved pc and flags, no handler active. -/
def State.returnFromIrq (s : State) : State :=
  { s.jumpTo s.intr.savedPc with
    carry := s.intr.savedCarry
    zero := s.intr.savedZero
    intr := { s.intr with inHandler := false } }

/-! Reset (70_reset_and_hazards.md R139). -/

/-- A register right after reset: a fresh seed, floating unless SETTLE_TICKS is 0 (R139, 10_state.md R21). -/
def freshCell (p : Params) (n : Nat) : RegCell := ⟨Config.draw n, !(p.settleTicks == 0)⟩

/-- The reset operation (R139): IMEM, PROG_LEN, ROM, RAM and everything outside the core stay as they are. -/
def State.hostReset (s : State) : State :=
  { s with
    regs :=
      { r0 := freshCell s.cfg s.draws
        r1 := freshCell s.cfg (s.draws + 1)
        r2 := freshCell s.cfg (s.draws + 2)
        r3 := freshCell s.cfg (s.draws + 3) }
    settle := s.cfg.settleTicks
    pc := 0
    carry := false
    zero := false
    callStack := []
    intr :=
      { mask := 0, status := 0, enabled := false, inHandler := false
        savedPc := 0, savedCarry := false, savedZero := false }
    running := false
    fault := .none
    faultPc := 0
    fetchL := none
    decodeL := none
    executeL := none
    aluA := Config.draw (s.draws + 4)
    aluB := Config.draw (s.draws + 5)
    aluOp := Config.drawAluOp (s.draws + 6)
    draws := s.draws + 7 }

end Sys2Proof.Machine
end

