-- ==== Sys2Proof/Machine/Operands.lean ====
section
/-! DEFINITION. The operand forms (30_encoding.md R72, 40_alu.md R88, 41_data_movement.md R98, 42 R102): what an
instruction's operands are, and the state after they are read. Every operand is read from the state the
instruction starts in (00_scope.md R13), each register once (40 R88; log 7). -/

namespace Sys2Proof.Machine

/-- The value of `rb` when it is read together with `ra`: the same value when they are the same register. -/
def State.pairSecond (s : State) (ra rb : Reg) : Nibble :=
  if ra = rb then s.regValue ra else (s.afterRead ra).regValue rb

/-- The free values drawn after the registers `ra` and `rb` are read, `ra` first. -/
def State.pairDraws (s : State) (ra rb : Reg) : Nat :=
  if ra = rb then s.regDraws ra else (s.afterRead ra).regDraws rb

/-- The state after the registers `ra` and `rb` are read. -/
def State.afterPair (s : State) (ra rb : Reg) : State := { s with draws := s.pairDraws ra rb }

/-- A transfer that a condition gates (42 R107 to R109): to the target, or `next`. -/
def State.branch (s : State) (taken : Bool) (t : Nibble) : State := if taken then s.jumpTo t else s.next

end Sys2Proof.Machine
end

