-- ==== Sys2Proof/Machine/Alu.lean ====
section
/-! DEFINITION. The ALU instructions (40_alu.md R87 to R97): add, sub, mul, and, or, xor and cmp, in the register
and the immediate form. None raises a fault (R89); each advances by `next` (R88). -/

namespace Sys2Proof.Machine

/-- An ALU operation other than cmp on operands already read (R88): the destination, C and Z are written and
the ALU's latches are loaded (10_state.md R34). -/
def State.aluStore (s : State) (op : AluOp) (ra : Reg) (a b : Nibble) : State :=
  { s.writeReg ra (alu op a b).result with
    carry := (alu op a b).carry, zero := (alu op a b).zero, aluA := a, aluB := b, aluOp := op }

/-- A compare on operands already read (R96): C and Z only. The ALU's latches are "restored to their
pre-compare values" (10_state.md R34). -/
def State.aluCompare (s : State) (a b : Nibble) : State :=
  { s with carry := (alu .cmp a b).carry, zero := (alu .cmp a b).zero }

/-- An ALU instruction in the register form: `a = x[ra]`, `b = x[rb]` (R88). -/
def State.aluReg (s : State) (op : AluOp) (ra rb : Reg) : State :=
  ((s.afterPair ra rb).aluStore op ra (s.regValue ra) (s.pairSecond ra rb)).next

/-- An ALU instruction in the immediate form: `a = x[ra]`, `b = imm` (R88). -/
def State.aluImm (s : State) (op : AluOp) (ra : Reg) (imm : Nibble) : State :=
  ((s.afterRead ra).aluStore op ra (s.regValue ra) imm).next

/-- `add rA rB` (R90). -/
def execAddR (ra rb : Reg) (s : State) : Host.Outcome State Fault Refusal := .next (s.aluReg .add ra rb)

/-- `add rA k` (R90). -/
def execAddI (ra : Reg) (imm : Nibble) (s : State) : Host.Outcome State Fault Refusal := .next (s.aluImm .add ra imm)

/-- `sub rA rB` (R91). -/
def execSubR (ra rb : Reg) (s : State) : Host.Outcome State Fault Refusal := .next (s.aluReg .sub ra rb)

/-- `sub rA k` (R91). -/
def execSubI (ra : Reg) (imm : Nibble) (s : State) : Host.Outcome State Fault Refusal := .next (s.aluImm .sub ra imm)

/-- `mul rA rB` (R92). -/
def execMulR (ra rb : Reg) (s : State) : Host.Outcome State Fault Refusal := .next (s.aluReg .mul ra rb)

/-- `mul rA k` (R92). -/
def execMulI (ra : Reg) (imm : Nibble) (s : State) : Host.Outcome State Fault Refusal := .next (s.aluImm .mul ra imm)

/-- `and rA rB` (R93). -/
def execAndR (ra rb : Reg) (s : State) : Host.Outcome State Fault Refusal := .next (s.aluReg .and ra rb)

/-- `and rA k` (R93). -/
def execAndI (ra : Reg) (imm : Nibble) (s : State) : Host.Outcome State Fault Refusal := .next (s.aluImm .and ra imm)

/-- `or rA rB` (R94). -/
def execOrR (ra rb : Reg) (s : State) : Host.Outcome State Fault Refusal := .next (s.aluReg .or ra rb)

/-- `or rA k` (R94). -/
def execOrI (ra : Reg) (imm : Nibble) (s : State) : Host.Outcome State Fault Refusal := .next (s.aluImm .or ra imm)

/-- `xor rA rB` (R95). -/
def execXorR (ra rb : Reg) (s : State) : Host.Outcome State Fault Refusal := .next (s.aluReg .xor ra rb)

/-- `xor rA k` (R95). -/
def execXorI (ra : Reg) (imm : Nibble) (s : State) : Host.Outcome State Fault Refusal := .next (s.aluImm .xor ra imm)

/-- `cmp rA rB` (R96). -/
def execCmpR (ra rb : Reg) (s : State) : Host.Outcome State Fault Refusal :=
  .next ((s.afterPair ra rb).aluCompare (s.regValue ra) (s.pairSecond ra rb)).next

/-- `cmp rA k` (R96). -/
def execCmpI (ra : Reg) (imm : Nibble) (s : State) : Host.Outcome State Fault Refusal :=
  .next ((s.afterRead ra).aluCompare (s.regValue ra) imm).next

end Sys2Proof.Machine
end

