-- ==== Sys2Proof/Machine/Control.lean ====
section
/-! DEFINITION. The control-transfer instructions (42_control_transfer.md R102 to R111): jmp, jz, jnz, jc and
call in the register form (the target is x[rb], read whether or not the jump is taken) and the absolute form,
and ret. None writes C or Z. -/

namespace Sys2Proof.Machine

/-- `call` on a target (R110). The return address is `(pc + 1) mod 16` of the call's own address; a full
stack raises StackOverflow and nothing is pushed. -/
def State.callTo (s : State) (t : Nibble) : State :=
  if s.stackFull then s.raise .stackOverflow else (s.push (pcIncrement s.ownPc)).jumpTo t

/-- `ret` (R111): StackUnderflow before ReturnOutOfRange (60 R120); in both cases the stack is unchanged. -/
def State.returnFromCall (s : State) : State :=
  match s.callStack with
  | [] => s.raise .stackUnderflow
  | t :: _ => if t.toNat < s.progLen then s.pop.jumpTo t else s.raise .returnOutOfRange

/-- `jmp rB` (R106). -/
def execJmpR (rb : Reg) (s : State) : Host.Outcome State Fault Refusal := .next ((s.afterRead rb).jumpTo (s.regValue rb))

/-- `jmp t` (R106). -/
def execJmpI (imm : Nibble) (s : State) : Host.Outcome State Fault Refusal := .next (s.jumpTo imm)

/-- `jz rB` (R107): taken if Z = 1. -/
def execJzR (rb : Reg) (s : State) : Host.Outcome State Fault Refusal := .next ((s.afterRead rb).branch s.zero (s.regValue rb))

/-- `jz t` (R107). -/
def execJzI (imm : Nibble) (s : State) : Host.Outcome State Fault Refusal := .next (s.branch s.zero imm)

/-- `jnz rB` (R108): taken if Z = 0. -/
def execJnzR (rb : Reg) (s : State) : Host.Outcome State Fault Refusal := .next ((s.afterRead rb).branch (!s.zero) (s.regValue rb))

/-- `jnz t` (R108). -/
def execJnzI (imm : Nibble) (s : State) : Host.Outcome State Fault Refusal := .next (s.branch (!s.zero) imm)

/-- `jc rB` (R109): taken if C = 1. -/
def execJcR (rb : Reg) (s : State) : Host.Outcome State Fault Refusal := .next ((s.afterRead rb).branch s.carry (s.regValue rb))

/-- `jc t` (R109). -/
def execJcI (imm : Nibble) (s : State) : Host.Outcome State Fault Refusal := .next (s.branch s.carry imm)

/-- `call rB` (R110). -/
def execCallR (rb : Reg) (s : State) : Host.Outcome State Fault Refusal := .next ((s.afterRead rb).callTo (s.regValue rb))

/-- `call t` (R110). -/
def execCallI (imm : Nibble) (s : State) : Host.Outcome State Fault Refusal := .next (s.callTo imm)

/-- `ret` (R111). -/
def execRet (s : State) : Host.Outcome State Fault Refusal := .next s.returnFromCall

end Sys2Proof.Machine
end

