-- ==== Sys2Proof/Machine/Move.lean ====
section
/-! DEFINITION. The data movement instructions (41_data_movement.md R98 to R101): mov, load and store. None
changes C or Z, none raises a fault. -/

namespace Sys2Proof.Machine

/-- `x[ra] <- MemRead(EA, 1); next` on an address already formed (R100). -/
def State.loadFrom (s : State) (ra : Reg) (ea : Nibble) : State :=
  ((s.afterBusRead ea).writeReg ra (s.busValue ea)).next

/-- `MemWrite(EA, 1, d); next` on an address and data already read (R101). -/
def State.storeTo (s : State) (ea d : Nibble) : State := (s.busWrite ea d).next

/-- `mov rA rB` (R99). -/
def execMovR (ra rb : Reg) (s : State) : Host.Outcome State Fault Refusal :=
  .next ((s.afterRead rb).writeReg ra (s.regValue rb)).next

/-- `mov rA k` (R99). -/
def execMovI (ra : Reg) (imm : Nibble) (s : State) : Host.Outcome State Fault Refusal :=
  .next (s.writeReg ra imm).next

/-- `load rA [rB]` (R100): EA = x[rb], the old value when ra = rb. -/
def execLoadR (ra rb : Reg) (s : State) : Host.Outcome State Fault Refusal :=
  .next ((s.afterRead rb).loadFrom ra (s.regValue rb))

/-- `load rA [k]` (R100): EA = imm. -/
def execLoadI (ra : Reg) (imm : Nibble) (s : State) : Host.Outcome State Fault Refusal :=
  .next (s.loadFrom ra imm)

/-- `store [rB] rA` (R101): EA = x[rb], the data x[ra]. -/
def execStoreR (ra rb : Reg) (s : State) : Host.Outcome State Fault Refusal :=
  .next ((s.afterPair ra rb).storeTo (s.pairSecond ra rb) (s.regValue ra))

/-- `store [k] rA` (R101): EA = imm, the data x[ra]. -/
def execStoreI (ra : Reg) (imm : Nibble) (s : State) : Host.Outcome State Fault Refusal :=
  .next ((s.afterRead ra).storeTo imm (s.regValue ra))

end Sys2Proof.Machine
end

