-- ==== Sys2Proof/Machine/System.lean ====
section
/-! DEFINITION. The system instructions (43_system.md R112 to R115): nop, hlt, irq and iret. The core has one
mode: none needs a privilege (60 R133). -/

namespace Sys2Proof.Machine

/-- "As an IRQ number only `IMM[1:0]` is used" (30_encoding.md R70). -/
def lineOfImm (n : Nibble) : BitVec 2 := n.extractLsb' 0 2

/-- `nop` (R112). -/
def execNop (s : State) : Host.Outcome State Fault Refusal := .next s.next

/-- `hlt` (R113). -/
def execHlt (s : State) : Host.Outcome State Fault Refusal := .next s.halt

/-- `irq n` (R114). -/
def execIrq (n : Nibble) (s : State) : Host.Outcome State Fault Refusal := .next (s.requestLine (lineOfImm n)).next

/-- `iret` (R115): with no active handler it raises IretOutsideHandler. -/
def execIret (s : State) : Host.Outcome State Fault Refusal :=
  .next (if s.intr.inHandler then s.returnFromIrq else s.raise .iretOutsideHandler)

end Sys2Proof.Machine
end

