-- ==== Sys2Proof/Machine/Dispatch.lean ====
section
/-! DEFINITION. The meaning of every instruction: one arm per constructor of `Instr`. -/

namespace Sys2Proof.Machine

def exec (i : Instr) (s : State) : Host.Outcome State Fault Refusal :=
  match i with
  | .nop => Sys2Proof.Machine.execNop s
  | .addR ra rb => Sys2Proof.Machine.execAddR ra rb s
  | .addI ra imm => Sys2Proof.Machine.execAddI ra imm s
  | .subR ra rb => Sys2Proof.Machine.execSubR ra rb s
  | .subI ra imm => Sys2Proof.Machine.execSubI ra imm s
  | .mulR ra rb => Sys2Proof.Machine.execMulR ra rb s
  | .mulI ra imm => Sys2Proof.Machine.execMulI ra imm s
  | .andR ra rb => Sys2Proof.Machine.execAndR ra rb s
  | .andI ra imm => Sys2Proof.Machine.execAndI ra imm s
  | .orR ra rb => Sys2Proof.Machine.execOrR ra rb s
  | .orI ra imm => Sys2Proof.Machine.execOrI ra imm s
  | .xorR ra rb => Sys2Proof.Machine.execXorR ra rb s
  | .xorI ra imm => Sys2Proof.Machine.execXorI ra imm s
  | .cmpR ra rb => Sys2Proof.Machine.execCmpR ra rb s
  | .cmpI ra imm => Sys2Proof.Machine.execCmpI ra imm s
  | .movR ra rb => Sys2Proof.Machine.execMovR ra rb s
  | .movI ra imm => Sys2Proof.Machine.execMovI ra imm s
  | .loadR ra rb => Sys2Proof.Machine.execLoadR ra rb s
  | .loadI ra imm => Sys2Proof.Machine.execLoadI ra imm s
  | .storeR ra rb => Sys2Proof.Machine.execStoreR ra rb s
  | .storeI ra imm => Sys2Proof.Machine.execStoreI ra imm s
  | .jmpR rb => Sys2Proof.Machine.execJmpR rb s
  | .jmpI imm => Sys2Proof.Machine.execJmpI imm s
  | .jzR rb => Sys2Proof.Machine.execJzR rb s
  | .jzI imm => Sys2Proof.Machine.execJzI imm s
  | .jnzR rb => Sys2Proof.Machine.execJnzR rb s
  | .jnzI imm => Sys2Proof.Machine.execJnzI imm s
  | .jcR rb => Sys2Proof.Machine.execJcR rb s
  | .jcI imm => Sys2Proof.Machine.execJcI imm s
  | .callR rb => Sys2Proof.Machine.execCallR rb s
  | .callI imm => Sys2Proof.Machine.execCallI imm s
  | .ret => Sys2Proof.Machine.execRet s
  | .iret => Sys2Proof.Machine.execIret s
  | .hlt => Sys2Proof.Machine.execHlt s
  | .irq n => Sys2Proof.Machine.execIrq n s

end Sys2Proof.Machine
end

