-- ==== Sys2Proof/WellFormed.lean ====
section
/-! DEFINITION. Which terms of `Instr` an instruction word can carry. The types of the operands leave one
check: the IMM field of `irq` is a line number (30_encoding.md R70, R75). -/

namespace Sys2Proof

/-- True when some instruction word carries the instruction. For `irq`, "`IMM[3:2]` must be 00" (R70). -/
def Instr.wellFormed : Instr → Bool
  | .nop => true
  | .addR _ _ => true | .addI _ _ => true
  | .subR _ _ => true | .subI _ _ => true
  | .mulR _ _ => true | .mulI _ _ => true
  | .andR _ _ => true | .andI _ _ => true
  | .orR _ _ => true | .orI _ _ => true
  | .xorR _ _ => true | .xorI _ _ => true
  | .cmpR _ _ => true | .cmpI _ _ => true
  | .movR _ _ => true | .movI _ _ => true
  | .loadR _ _ => true | .loadI _ _ => true
  | .storeR _ _ => true | .storeI _ _ => true
  | .jmpR _ => true | .jmpI _ => true
  | .jzR _ => true | .jzI _ => true
  | .jnzR _ => true | .jnzI _ => true
  | .jcR _ => true | .jcI _ => true
  | .callR _ => true | .callI _ => true
  | .ret => true
  | .iret => true
  | .hlt => true
  | .irq n => decide (n.toNat < 4)

end Sys2Proof
end

