-- ==== Sys2Proof/Decode.lean ====
section
/-! DEFINITION. The instruction codec (30_encoding.md R68 to R77): the fields of a word, the table of legal
encodings, decoding (total on every word) and, after it, encoding. -/

namespace Sys2Proof

/-- A register field's number as a register: 00 is r0, 01 is r1, 10 is r2, 11 is r3 (R71). -/
def regOfField (b : BitVec 2) : Reg :=
  if b = 0 then .r0 else if b = 1 then .r1 else if b = 2 then .r2 else .r3

/-- `RA = word[7:6]` (R69, R71). -/
def raField (w : Word) : Reg := regOfField (w.extractLsb' 6 2)

/-- `RB = word[5:4]` (R69, R71). -/
def rbField (w : Word) : Reg := regOfField (w.extractLsb' 4 2)

/-- `IMM = word[3:0]` (R69, R70). -/
def immField (w : Word) : Nibble := w.extractLsb' 0 4

/-- One row of R74: a word is the named form iff `w & mask = match`; `build` takes RA, RB and IMM. -/
structure EncodingRow where
  matchBits : Word
  maskBits : Word
  build : Reg → Reg → Nibble → Instr

/-- "A word w is the named form iff `w & mask == match`" (R74). -/
def EncodingRow.covers (r : EncodingRow) (w : Word) : Bool := w &&& r.maskBits == r.matchBits

/-- The rows of R74 for `nop` and the ALU instructions. -/
def aluRows : List EncodingRow := [
  ⟨0x0000, 0xFFFF, fun _ _ _ => .nop⟩,
  ⟨0x1000, 0xFF0F, fun ra rb _ => .addR ra rb⟩,
  ⟨0x1800, 0xFF30, fun ra _ imm => .addI ra imm⟩,
  ⟨0x2000, 0xFF0F, fun ra rb _ => .subR ra rb⟩,
  ⟨0x2800, 0xFF30, fun ra _ imm => .subI ra imm⟩,
  ⟨0x3000, 0xFF0F, fun ra rb _ => .mulR ra rb⟩,
  ⟨0x3800, 0xFF30, fun ra _ imm => .mulI ra imm⟩,
  ⟨0x4000, 0xFF0F, fun ra rb _ => .andR ra rb⟩,
  ⟨0x4800, 0xFF30, fun ra _ imm => .andI ra imm⟩,
  ⟨0x5000, 0xFF0F, fun ra rb _ => .orR ra rb⟩,
  ⟨0x5800, 0xFF30, fun ra _ imm => .orI ra imm⟩,
  ⟨0x6000, 0xFF0F, fun ra rb _ => .xorR ra rb⟩,
  ⟨0x6800, 0xFF30, fun ra _ imm => .xorI ra imm⟩,
  ⟨0x7000, 0xFF0F, fun ra rb _ => .cmpR ra rb⟩,
  ⟨0x7800, 0xFF30, fun ra _ imm => .cmpI ra imm⟩]

/-- The rows of R74 for mov, load and store. -/
def moveRows : List EncodingRow := [
  ⟨0x8000, 0xFF0F, fun ra rb _ => .movR ra rb⟩,
  ⟨0x8800, 0xFF30, fun ra _ imm => .movI ra imm⟩,
  ⟨0x9000, 0xFF0F, fun ra rb _ => .loadR ra rb⟩,
  ⟨0x9800, 0xFF30, fun ra _ imm => .loadI ra imm⟩,
  ⟨0xA000, 0xFF0F, fun ra rb _ => .storeR ra rb⟩,
  ⟨0xA800, 0xFF30, fun ra _ imm => .storeI ra imm⟩]

/-- The rows of R74 for the jumps, call, ret, iret, hlt and irq. -/
def controlRows : List EncodingRow := [
  ⟨0xB000, 0xFFCF, fun _ rb _ => .jmpR rb⟩,
  ⟨0xB800, 0xFFF0, fun _ _ imm => .jmpI imm⟩,
  ⟨0xC000, 0xFFCF, fun _ rb _ => .jzR rb⟩,
  ⟨0xC800, 0xFFF0, fun _ _ imm => .jzI imm⟩,
  ⟨0xC100, 0xFFCF, fun _ rb _ => .jnzR rb⟩,
  ⟨0xC900, 0xFFF0, fun _ _ imm => .jnzI imm⟩,
  ⟨0xC200, 0xFFCF, fun _ rb _ => .jcR rb⟩,
  ⟨0xCA00, 0xFFF0, fun _ _ imm => .jcI imm⟩,
  ⟨0xD000, 0xFFCF, fun _ rb _ => .callR rb⟩,
  ⟨0xD800, 0xFFF0, fun _ _ imm => .callI imm⟩,
  ⟨0xE000, 0xFFFF, fun _ _ _ => .ret⟩,
  ⟨0xE100, 0xFFFF, fun _ _ _ => .iret⟩,
  ⟨0xF000, 0xFFFF, fun _ _ _ => .hlt⟩,
  ⟨0xF100, 0xFFFC, fun _ _ imm => .irq imm⟩]

/-- "Every legal encoding, as match/mask pairs" (R74): 35 rows. -/
def encodingRows : List EncodingRow := aluRows ++ moveRows ++ controlRows

/-- `Decode(w)` (R76): the instruction of the row that covers the word, else `Illegal(w)` (R75). Total on
every word; it never gives END. -/
def decode (w : Word) : Decoded :=
  match encodingRows.find? (fun r => r.covers w) with
  | some r => .insn (r.build (raField w) (rbField w) (immField w))
  | none => .illegal w

/-- The number of a register, as RA and RB hold it (R71). -/
def fieldOfReg : Reg → BitVec 2
  | .r0 => 0
  | .r1 => 1
  | .r2 => 2
  | .r3 => 3

/-- A register in the RA field: `RA << 6` (R77). -/
def raBits (r : Reg) : Word := (fieldOfReg r).setWidth 16 <<< 6

/-- A register in the RB field: `RB << 4` (R77). -/
def rbBits (r : Reg) : Word := (fieldOfReg r).setWidth 16 <<< 4

/-- A nibble in the IMM field (R77). -/
def immBits (n : Nibble) : Word := n.setWidth 16

/-- `Encode(Insn)` (R77): the row's match value ORed with the free fields. -/
def encode : Instr → Word
  | .nop => 0x0000
  | .addR ra rb => 0x1000 ||| raBits ra ||| rbBits rb
  | .addI ra imm => 0x1800 ||| raBits ra ||| immBits imm
  | .subR ra rb => 0x2000 ||| raBits ra ||| rbBits rb
  | .subI ra imm => 0x2800 ||| raBits ra ||| immBits imm
  | .mulR ra rb => 0x3000 ||| raBits ra ||| rbBits rb
  | .mulI ra imm => 0x3800 ||| raBits ra ||| immBits imm
  | .andR ra rb => 0x4000 ||| raBits ra ||| rbBits rb
  | .andI ra imm => 0x4800 ||| raBits ra ||| immBits imm
  | .orR ra rb => 0x5000 ||| raBits ra ||| rbBits rb
  | .orI ra imm => 0x5800 ||| raBits ra ||| immBits imm
  | .xorR ra rb => 0x6000 ||| raBits ra ||| rbBits rb
  | .xorI ra imm => 0x6800 ||| raBits ra ||| immBits imm
  | .cmpR ra rb => 0x7000 ||| raBits ra ||| rbBits rb
  | .cmpI ra imm => 0x7800 ||| raBits ra ||| immBits imm
  | .movR ra rb => 0x8000 ||| raBits ra ||| rbBits rb
  | .movI ra imm => 0x8800 ||| raBits ra ||| immBits imm
  | .loadR ra rb => 0x9000 ||| raBits ra ||| rbBits rb
  | .loadI ra imm => 0x9800 ||| raBits ra ||| immBits imm
  | .storeR ra rb => 0xA000 ||| raBits ra ||| rbBits rb
  | .storeI ra imm => 0xA800 ||| raBits ra ||| immBits imm
  | .jmpR rb => 0xB000 ||| rbBits rb
  | .jmpI imm => 0xB800 ||| immBits imm
  | .jzR rb => 0xC000 ||| rbBits rb
  | .jzI imm => 0xC800 ||| immBits imm
  | .jnzR rb => 0xC100 ||| rbBits rb
  | .jnzI imm => 0xC900 ||| immBits imm
  | .jcR rb => 0xC200 ||| rbBits rb
  | .jcI imm => 0xCA00 ||| immBits imm
  | .callR rb => 0xD000 ||| rbBits rb
  | .callI imm => 0xD800 ||| immBits imm
  | .ret => 0xE000
  | .iret => 0xE100
  | .hlt => 0xF000
  | .irq n => 0xF100 ||| immBits n

/-- The instruction the decoder reads from an instruction whose bits are `w`, `nbits` of them given by the
table and the bits above them 0. -/
def decodeTableWord (nbits w : Nat) : Option Instr :=
  match decode (BitVec.ofNat 16 (w % 2 ^ nbits)) with
  | .insn i => some i
  | .illegal _ => none
  | .endMark => none

end Sys2Proof
end

