-- ==== Sys2Proof/Machine/Assembler.lean ====
section
/-! DEFINITION. The text form of a program (30_encoding.md R80 to R85): the assembler, which turns lines of text
into instruction words, and the formatter, its inverse. Points the spec does not fix: logs 15 and 16. -/

namespace Sys2Proof.Machine

/-! Characters. -/

/-- A decimal digit. -/
def isDigitChar (c : Char) : Bool := decide (48 ≤ c.toNat) && decide (c.toNat ≤ 57)

/-- A letter, `a` to `z` or `A` to `Z` (log 16). -/
def isLetterChar (c : Char) : Bool :=
  (decide (97 ≤ c.toNat) && decide (c.toNat ≤ 122)) || (decide (65 ≤ c.toNat) && decide (c.toNat ≤ 90))

/-- The value of a hex digit of either case. -/
def hexDigit (c : Char) : Option Nat :=
  if isDigitChar c then some (c.toNat - 48)
  else if decide (97 ≤ c.toNat) && decide (c.toNat ≤ 102) then some (c.toNat - 87)
  else if decide (65 ≤ c.toNat) && decide (c.toNat ≤ 70) then some (c.toNat - 55)
  else none

/-- White space inside a line (log 16). -/
def isBlankChar (c : Char) : Bool := c == ' ' || c == '\t' || c == '\r'

/-- The pieces of a text between the characters that `p` picks. -/
def splitAtChars (p : Char → Bool) : Text → List Text
  | [] => [[]]
  | c :: cs =>
    if p c then [] :: splitAtChars p cs
    else
      match splitAtChars p cs with
      | [] => [[c]]
      | piece :: pieces => (c :: piece) :: pieces

/-- A line without its comment: "`;` and everything after it to the end of the line" (R80). That a comment may follow an
instruction or a label with no `|` between them is the model's choice (DESIGN CHOICE, log 16). -/
def withoutComment : Text → Text
  | [] => []
  | c :: cs => if c == ';' then [] else c :: withoutComment cs

/-- The words of an item, separated by white space (R81). -/
def wordsOf (t : Text) : List Text := (splitAtChars isBlankChar t).filter fun w => !w.isEmpty

/-- The items of a program: its lines without comments, each cut at `|` (R80), as lists of words. A comment needs no `|`
before it (log 16). -/
def itemsOf (t : Text) : List (List Text) :=
  (splitAtChars (fun c => c == '\n') t).flatMap fun line =>
    (splitAtChars (fun c => c == '|') (withoutComment line)).map wordsOf

/-! Operands (R82, R83). -/

/-- The number a list of digits writes in a base; none when one of them is no digit. -/
def digitsValue (base : Nat) (digit : Char → Option Nat) : Nat → Text → Option Nat
  | acc, [] => some acc
  | acc, c :: cs =>
    match digit c with
    | some d => digitsValue base digit (acc * base + d) cs
    | none => none

/-- A decimal digit's value. -/
def decimalDigit (c : Char) : Option Nat := if isDigitChar c then some (c.toNat - 48) else none

/-- A binary digit's value. -/
def binaryDigit (c : Char) : Option Nat := if c == '0' then some 0 else if c == '1' then some 1 else none

/-- `0x` or `0X` followed by one or two hex digits (R83, rule 1). -/
def hexLiteral : Text → Option Nat
  | '0' :: x :: ds =>
    if (x == 'x' || x == 'X') && (ds.length == 1 || ds.length == 2) then digitsValue 16 hexDigit 0 ds else none
  | _ => none

/-- "Exactly four characters, each `0` or `1`" (R83, rule 2). -/
def binaryLiteral (t : Text) : Option Nat := if t.length == 4 then digitsValue 2 binaryDigit 0 t else none

/-- "One or more decimal digits" (R83, rule 3). -/
def decimalLiteral (t : Text) : Option Nat := if t.isEmpty then none else digitsValue 10 decimalDigit 0 t

/-- A numeric literal's value, "checked in this order" (R83); its range is checked apart. -/
def literalValue (t : Text) : Option Nat :=
  match hexLiteral t with
  | some v => some v
  | none =>
    match binaryLiteral t with
    | some v => some v
    | none => decimalLiteral t

/-- A literal as a nibble: "Values outside range are a parse error, not a silent truncation" (R83). -/
def literalNibble (t : Text) : Except ParseError Nibble :=
  match literalValue t with
  | some v => if v < 16 then .ok (BitVec.ofNat 4 v) else .error .outOfRange
  | none => .error .badOperand

/-- The text of a register (R82). -/
def regText : Reg → Text
  | .r0 => ['r', '0']
  | .r1 => ['r', '1']
  | .r2 => ['r', '2']
  | .r3 => ['r', '3']

/-- The register a text names, if any. -/
def regOfText (t : Text) : Option Reg :=
  if t = regText .r0 then some .r0
  else if t = regText .r1 then some .r1
  else if t = regText .r2 then some .r2
  else if t = regText .r3 then some .r3
  else none

/-- `r` followed by digits (R82). -/
def looksLikeReg : Text → Bool
  | 'r' :: ds => !ds.isEmpty && ds.all isDigitChar
  | _ => false

/-- A name: "starts with a letter or `_`, continues with letters, digits or `_`, and is not one of `r0`..`r3`"
(R82). -/
def isName : Text → Bool
  | [] => false
  | c :: cs =>
    (isLetterChar c || c == '_') && cs.all (fun d => isLetterChar d || isDigitChar d || d == '_') &&
      (regOfText (c :: cs)).isNone

/-- The shapes of an operand (R82). -/
inductive OperandShape where
  | reg (r : Reg)
  | literal (n : Nibble)
  | memReg (r : Reg)
  | memLiteral (n : Nibble)
  | label (name : Text)
  deriving DecidableEq, Repr

/-- The text inside the brackets of a memory operand: `[rN]` or `[literal]` (R82). -/
def parseMemory (t : Text) : Except ParseError OperandShape :=
  match regOfText t with
  | some r => .ok (.memReg r)
  | none =>
    if looksLikeReg t then .error .unknownRegister
    else
      match literalNibble t with
      | .ok n => .ok (.memLiteral n)
      | .error e => .error e

/-- One operand (R82): a register, a memory operand, a label reference (`@name` or `name`), or a literal. -/
def parseOperand (t : Text) : Except ParseError OperandShape :=
  match regOfText t with
  | some r => .ok (.reg r)
  | none =>
    if looksLikeReg t then .error .unknownRegister
    else
      match t with
      | '[' :: rest =>
        if rest.getLast? = some ']' then parseMemory rest.dropLast else .error .badOperand
      | '@' :: name => if isName name then .ok (.label name) else .error .badOperand
      | _ =>
        if isName t then .ok (.label t)
        else
          match literalNibble t with
          | .ok n => .ok (.literal n)
          | .error e => .error e

/-- The operands of an item, the first error first. -/
def parseOperands : List Text → Except ParseError (List OperandShape)
  | [] => .ok []
  | t :: ts =>
    match parseOperand t with
    | .error e => .error e
    | .ok o =>
      match parseOperands ts with
      | .error e => .error e
      | .ok os => .ok (o :: os)

/-! Instructions (R81, R84). -/

/-- The mnemonic of a kind (R81). -/
def mnemonicText : Kind → Text
  | .nop => ['n', 'o', 'p']
  | .add => ['a', 'd', 'd']
  | .sub => ['s', 'u', 'b']
  | .mul => ['m', 'u', 'l']
  | .and => ['a', 'n', 'd']
  | .or => ['o', 'r']
  | .xor => ['x', 'o', 'r']
  | .cmp => ['c', 'm', 'p']
  | .mov => ['m', 'o', 'v']
  | .load => ['l', 'o', 'a', 'd']
  | .store => ['s', 't', 'o', 'r', 'e']
  | .jmp => ['j', 'm', 'p']
  | .jz => ['j', 'z']
  | .jnz => ['j', 'n', 'z']
  | .jc => ['j', 'c']
  | .call => ['c', 'a', 'l', 'l']
  | .ret => ['r', 'e', 't']
  | .iret => ['i', 'r', 'e', 't']
  | .hlt => ['h', 'l', 't']
  | .irq => ['i', 'r', 'q']

/-- The mnemonic list of R81. -/
def allKinds : List Kind :=
  [.nop, .add, .sub, .mul, .and, .or, .xor, .cmp, .mov, .load, .store,
    .jmp, .jz, .jnz, .jc, .call, .ret, .iret, .hlt, .irq]

/-- The kind a lower-case mnemonic names (R81). -/
def kindOfText (t : Text) : Option Kind := allKinds.find? fun k => mnemonicText k == t

/-- The number of operands of a mnemonic (R81). -/
def operandCount : Kind → Nat
  | .nop => 0 | .ret => 0 | .iret => 0 | .hlt => 0
  | .irq => 1 | .jmp => 1 | .jz => 1 | .jnz => 1 | .jc => 1 | .call => 1
  | .add => 2 | .sub => 2 | .mul => 2 | .and => 2 | .or => 2 | .xor => 2 | .cmp => 2
  | .mov => 2 | .load => 2 | .store => 2

/-- An instruction of the text: complete, or a transfer whose target is a label still to be resolved. -/
inductive ParsedInstr where
  | complete (i : Instr)
  | toLabel (k : Kind) (name : Text)
  deriving DecidableEq, Repr

/-- A transfer to an address: the absolute form of a jump or call (R84); none for another kind. -/
def transferTo (k : Kind) (t : Nibble) : Option Instr :=
  match k with
  | .jmp => some (.jmpI t)
  | .jz => some (.jzI t)
  | .jnz => some (.jnzI t)
  | .jc => some (.jcI t)
  | .call => some (.callI t)
  | _ => none

/-- A transfer to a register: the register form of a jump or call (R84); none for another kind. -/
def transferToReg (k : Kind) (r : Reg) : Option Instr :=
  match k with
  | .jmp => some (.jmpR r)
  | .jz => some (.jzR r)
  | .jnz => some (.jnzR r)
  | .jc => some (.jcR r)
  | .call => some (.callR r)
  | _ => none

/-- The register form of an ALU instruction or mov (R84); none for another kind. -/
def registerForm (k : Kind) (ra rb : Reg) : Option Instr :=
  match k with
  | .add => some (.addR ra rb)
  | .sub => some (.subR ra rb)
  | .mul => some (.mulR ra rb)
  | .and => some (.andR ra rb)
  | .or => some (.orR ra rb)
  | .xor => some (.xorR ra rb)
  | .cmp => some (.cmpR ra rb)
  | .mov => some (.movR ra rb)
  | _ => none

/-- The immediate form of an ALU instruction or mov (R84); none for another kind. -/
def immediateForm (k : Kind) (ra : Reg) (n : Nibble) : Option Instr :=
  match k with
  | .add => some (.addI ra n)
  | .sub => some (.subI ra n)
  | .mul => some (.mulI ra n)
  | .and => some (.andI ra n)
  | .or => some (.orI ra n)
  | .xor => some (.xorI ra n)
  | .cmp => some (.cmpI ra n)
  | .mov => some (.movI ra n)
  | _ => none

/-- An instruction without operands; none for another kind. -/
def bareForm (k : Kind) : Option Instr :=
  match k with
  | .nop => some .nop
  | .ret => some .ret
  | .iret => some .iret
  | .hlt => some .hlt
  | _ => none

/-- A complete instruction, or the error that its operand stands in the wrong position (R82). -/
def completeOr (i : Option Instr) : Except ParseError ParsedInstr :=
  match i with
  | some i => .ok (.complete i)
  | none => .error .wrongPosition

/-- The instruction of a mnemonic and its operands, by the operands' shapes (R82, R84). -/
def buildInstr (k : Kind) (os : List OperandShape) : Except ParseError ParsedInstr :=
  match os with
  | [] => completeOr (bareForm k)
  | [.reg r] => completeOr (transferToReg k r)
  | [.literal n] =>
    if k = .irq then (if n.toNat < 4 then .ok (.complete (.irq n)) else .error .outOfRange)
    else completeOr (transferTo k n)
  | [.label name] => if (transferTo k 0).isSome then .ok (.toLabel k name) else .error .wrongPosition
  | [.reg ra, .reg rb] => completeOr (registerForm k ra rb)
  | [.reg ra, .literal n] => completeOr (immediateForm k ra n)
  | [.reg ra, .memReg rb] => completeOr (if k = .load then some (.loadR ra rb) else none)
  | [.reg ra, .memLiteral n] => completeOr (if k = .load then some (.loadI ra n) else none)
  | [.memReg rb, .reg ra] => completeOr (if k = .store then some (.storeR ra rb) else none)
  | [.memLiteral n, .reg ra] => completeOr (if k = .store then some (.storeI ra n) else none)
  | _ => .error .wrongPosition

/-- One instruction: the mnemonic, the operand count, then the operands (R81, R82). -/
def parseInstr (mnemonic : Text) (operands : List Text) : Except ParseError ParsedInstr :=
  match kindOfText mnemonic with
  | none => .error .unknownMnemonic
  | some k =>
    if operands.length = operandCount k then
      match parseOperands operands with
      | .ok os => buildInstr k os
      | .error e => .error e
    else .error .operandCount

/-- The name a label declaration `name:` declares (R80), if the word is one. -/
def labelDeclared (t : Text) : Option Text :=
  if t.getLast? = some ':' && isName t.dropLast then some t.dropLast else none

/-! The assembler (R84). -/

/-- A label table: the latest declaration of a name stands (log 15). -/
def bindLabel (name : Text) (a : Nibble) (table : List (Text × Nibble)) : List (Text × Nibble) :=
  (name, a) :: table.filter fun e => !(e.1 == name)

/-- The address a name is bound to. -/
def labelAddress (table : List (Text × Nibble)) (name : Text) : Option Nibble :=
  match table with
  | [] => none
  | e :: rest => if e.1 = name then some e.2 else labelAddress rest name

/-- The labels that stand before an item's instruction, bound to the address of the next instruction, and the words
that are left (R80). That a declaration may be followed in its item, with no `|` between them, by another one (`a: b:`)
or by an instruction (`a: nop`) is the model's choice (DESIGN CHOICE, log 15). -/
def takeLabels (at_ : Nat) : List Text → List (Text × Nibble) → List (Text × Nibble) × List Text
  | [], table => (table, [])
  | w :: ws, table =>
    match labelDeclared w with
    | some name => takeLabels at_ ws (bindLabel name (BitVec.ofNat 4 at_) table)
    | none => (table, w :: ws)

/-- The first pass: the items in text order, with the number of instructions before them and the labels bound
so far. -/
def parseItems : List (List Text) → Nat → List (Text × Nibble) →
    Except ParseError (List ParsedInstr × List (Text × Nibble))
  | [], _, table => .ok ([], table)
  | item :: items, at_, table =>
    match takeLabels at_ item table with
    | (table', []) => parseItems items at_ table'
    | (table', w :: ws) =>
      match parseInstr w ws with
      | .error e => .error e
      | .ok p =>
        match parseItems items (at_ + 1) table' with
        | .error e => .error e
        | .ok (ps, final) => .ok (p :: ps, final)

/-- The second pass: label references get their addresses; a name with no declaration is a ResolutionError
(R82). -/
def resolveAll (table : List (Text × Nibble)) : List ParsedInstr → Except AsmError (List Instr)
  | [] => .ok []
  | .complete i :: ps =>
    match resolveAll table ps with
    | .ok is => .ok (i :: is)
    | .error e => .error e
  | .toLabel k name :: ps =>
    match labelAddress table name with
    | none => .error (.resolution name)
    | some a =>
      match transferTo k a, resolveAll table ps with
      | some i, .ok is => .ok (i :: is)
      | none, _ => .error (.parse .wrongPosition)
      | _, .error e => .error e

/-- What the assembler hands the host (R84): the word list (PROG_LEN is its length), and the label table. -/
structure Program where
  words : List Word
  labels : List (Text × Nibble)
  deriving DecidableEq, Repr

/-- The assembler (R80 to R84): "A program longer than 16 instructions cannot be encoded and is a ParseError". -/
def assemble (t : Text) : Except AsmError Program :=
  match parseItems (itemsOf t) 0 [] with
  | .error e => .error (.parse e)
  | .ok (ps, table) =>
    if 16 < ps.length then .error (.parse .tooLong)
    else
      match resolveAll table ps with
      | .error e => .error e
      | .ok is => .ok { words := is.map encode, labels := table }

/-! The formatter (R85). -/

/-- A nibble as 4-digit binary. -/
def binaryText (n : Nibble) : Text :=
  [n.getLsbD 3, n.getLsbD 2, n.getLsbD 1, n.getLsbD 0].map fun b => if b then '1' else '0'

/-- The irq number as a decimal digit. -/
def irqText (n : Nibble) : Text :=
  if n = 0 then ['0'] else if n = 1 then ['1'] else if n = 2 then ['2'] else if n = 3 then ['3'] else binaryText n

/-- A memory operand's text. -/
def bracketed (t : Text) : Text := '[' :: t ++ [']']

/-- The operands of an instruction in the order of R74. -/
def operandTexts : Instr → List Text
  | .nop => []
  | .addR ra rb => [regText ra, regText rb]
  | .addI ra imm => [regText ra, binaryText imm]
  | .subR ra rb => [regText ra, regText rb]
  | .subI ra imm => [regText ra, binaryText imm]
  | .mulR ra rb => [regText ra, regText rb]
  | .mulI ra imm => [regText ra, binaryText imm]
  | .andR ra rb => [regText ra, regText rb]
  | .andI ra imm => [regText ra, binaryText imm]
  | .orR ra rb => [regText ra, regText rb]
  | .orI ra imm => [regText ra, binaryText imm]
  | .xorR ra rb => [regText ra, regText rb]
  | .xorI ra imm => [regText ra, binaryText imm]
  | .cmpR ra rb => [regText ra, regText rb]
  | .cmpI ra imm => [regText ra, binaryText imm]
  | .movR ra rb => [regText ra, regText rb]
  | .movI ra imm => [regText ra, binaryText imm]
  | .loadR ra rb => [regText ra, bracketed (regText rb)]
  | .loadI ra imm => [regText ra, bracketed (binaryText imm)]
  | .storeR ra rb => [bracketed (regText rb), regText ra]
  | .storeI ra imm => [bracketed (binaryText imm), regText ra]
  | .jmpR rb => [regText rb]
  | .jmpI imm => [binaryText imm]
  | .jzR rb => [regText rb]
  | .jzI imm => [binaryText imm]
  | .jnzR rb => [regText rb]
  | .jnzI imm => [binaryText imm]
  | .jcR rb => [regText rb]
  | .jcI imm => [binaryText imm]
  | .callR rb => [regText rb]
  | .callI imm => [binaryText imm]
  | .ret => []
  | .iret => []
  | .hlt => []
  | .irq n => [irqText n]

/-- `Format(Insn)` (R85): the mnemonic, then the operands, separated by single spaces. -/
def format (i : Instr) : Text := mnemonicText i.kind ++ (operandTexts i).flatMap fun t => ' ' :: t

end Sys2Proof.Machine
end

