-- ==== Sys2Proof/Machine/Pipeline.lean ====
section
/-! DEFINITION. The two ways the core advances (70_reset_and_hazards.md R141 to R146): Step, one instruction at a
time, and Tick, one transition of the 3-stage pipeline. Both take the meaning of an instruction as an argument,
so that this file stands before the dispatch. -/

namespace Sys2Proof.Machine

/-- The registers an instruction reads, each once: `srcs(I)` (30_encoding.md R78). -/
def sources : Instr → List Reg
  | .nop => []
  | .addR ra rb => if ra = rb then [ra] else [ra, rb]
  | .addI ra _ => [ra]
  | .subR ra rb => if ra = rb then [ra] else [ra, rb]
  | .subI ra _ => [ra]
  | .mulR ra rb => if ra = rb then [ra] else [ra, rb]
  | .mulI ra _ => [ra]
  | .andR ra rb => if ra = rb then [ra] else [ra, rb]
  | .andI ra _ => [ra]
  | .orR ra rb => if ra = rb then [ra] else [ra, rb]
  | .orI ra _ => [ra]
  | .xorR ra rb => if ra = rb then [ra] else [ra, rb]
  | .xorI ra _ => [ra]
  | .cmpR ra rb => if ra = rb then [ra] else [ra, rb]
  | .cmpI ra _ => [ra]
  | .movR _ rb => [rb]
  | .movI _ _ => []
  | .loadR _ rb => [rb]
  | .loadI _ _ => []
  | .storeR ra rb => if ra = rb then [ra] else [ra, rb]
  | .storeI ra _ => [ra]
  | .jmpR rb => [rb]
  | .jmpI _ => []
  | .jzR rb => [rb]
  | .jzI _ => []
  | .jnzR rb => [rb]
  | .jnzI _ => []
  | .jcR rb => [rb]
  | .jcI _ => []
  | .callR rb => [rb]
  | .callI _ => []
  | .ret => []
  | .iret => []
  | .hlt => []
  | .irq _ => []

/-- The register an instruction writes: `dest(I)` (30_encoding.md R79). -/
def destination : Instr → Option Reg
  | .nop => none
  | .addR ra _ => some ra
  | .addI ra _ => some ra
  | .subR ra _ => some ra
  | .subI ra _ => some ra
  | .mulR ra _ => some ra
  | .mulI ra _ => some ra
  | .andR ra _ => some ra
  | .andI ra _ => some ra
  | .orR ra _ => some ra
  | .orI ra _ => some ra
  | .xorR ra _ => some ra
  | .xorI ra _ => some ra
  | .cmpR _ _ => none
  | .cmpI _ _ => none
  | .movR ra _ => some ra
  | .movI ra _ => some ra
  | .loadR ra _ => some ra
  | .loadI ra _ => some ra
  | .storeR _ _ => none
  | .storeI _ _ => none
  | .jmpR _ => none
  | .jmpI _ => none
  | .jzR _ => none
  | .jzI _ => none
  | .jnzR _ => none
  | .jnzI _ => none
  | .jcR _ => none
  | .jcI _ => none
  | .callR _ => none
  | .callI _ => none
  | .ret => none
  | .iret => none
  | .hlt => none
  | .irq _ => none

/-- The sources of a latched entry: an illegal word and END read no register (R78). -/
def entrySources : Decoded → List Reg
  | .insn i => sources i
  | .illegal _ => []
  | .endMark => []

/-- The destination of a latched entry: an illegal word and END write no register (R79). -/
def entryDestination : Decoded → Option Reg
  | .insn i => destination i
  | .illegal _ => none
  | .endMark => none

/-- "The 'taken transfers' are jmp, call, ret, iret, and jz, jnz or jc when their condition holds" (70 R143),
the condition on the flags the instruction starts with. -/
def takesTransfer (i : Instr) (s : State) : Bool :=
  match i with
  | .nop => false
  | .addR _ _ => false
  | .addI _ _ => false
  | .subR _ _ => false
  | .subI _ _ => false
  | .mulR _ _ => false
  | .mulI _ _ => false
  | .andR _ _ => false
  | .andI _ _ => false
  | .orR _ _ => false
  | .orI _ _ => false
  | .xorR _ _ => false
  | .xorI _ _ => false
  | .cmpR _ _ => false
  | .cmpI _ _ => false
  | .movR _ _ => false
  | .movI _ _ => false
  | .loadR _ _ => false
  | .loadI _ _ => false
  | .storeR _ _ => false
  | .storeI _ _ => false
  | .jmpR _ => true
  | .jmpI _ => true
  | .jzR _ => s.zero
  | .jzI _ => s.zero
  | .jnzR _ => !s.zero
  | .jnzI _ => !s.zero
  | .jcR _ => s.carry
  | .jcI _ => s.carry
  | .callR _ => true
  | .callI _ => true
  | .ret => true
  | .iret => true
  | .hlt => false
  | .irq _ => false

/-- Whether a latched entry redirects control when it executes. -/
def entryTransfers (d : Decoded) (s : State) : Bool :=
  match d with
  | .insn i => takesTransfer i s
  | .illegal _ => false
  | .endMark => false

/-- What a fetched word becomes in D: `(F.w == END) ? END : Decode(F.w)` (70 R143). -/
def decodeFetched : Fetched → Decoded
  | .word w => decode w
  | .endMark => .endMark

/-- The type of an instruction's meaning, as `exec` has it. -/
abbrev Meaning := Instr → State → Host.Outcome State Fault Refusal

/-- "perform I's rule" (70 R141, R143): an instruction its meaning, an illegal word UnknownOpcode
(43_system.md R117), END a halt (R116). -/
def perform (ex : Meaning) (d : Decoded) (s : State) : Host.Outcome State Fault Refusal :=
  match d with
  | .insn i => ex i s
  | .illegal _ => .next (s.raise .unknownOpcode)
  | .endMark => .next s.halt

/-- `Step()` (70 R141): the settle tick, then one interrupt entry or one instruction at `pc`. -/
def stepOnce (ex : Meaning) (s : State) : Host.Outcome State Fault Refusal :=
  if s.settleTick.irqPending then .next s.settleTick.takeIrq
  else perform ex (decodeFetched (s.settleTick.fetch s.settleTick.pc)) s.settleTick

/-- The hazard check (70 R143 step 3, R144): the entry that has just executed wrote a register that D reads. -/
def stalls (done : Option Decoded) (d : Option DecodeEntry) : Bool :=
  match done, d with
  | some e, some n =>
    match entryDestination e with
    | some r => decide (r ∈ entrySources n.insn)
    | none => false
  | _, _ => false

/-- The X entry that D becomes (70 R143 step 4), its operands read from the register file `f`. -/
def executeEntry (f : RegFile) (n : Nat) (d : DecodeEntry) : ExecuteEntry :=
  { pc := d.pc, insn := d.insn, ops := (readOperands f (entrySources d.insn) n).1 }

/-- The free values drawn when D moves to X. -/
def promotionDraws (f : RegFile) (n : Nat) (d : Option DecodeEntry) : Nat :=
  match d with
  | some e => (readOperands f (entrySources e.insn) n).2
  | none => n

/-- Steps 3 and 4 of a Tick (70 R143): a stall changes nothing more; otherwise D moves to X, F to D, and the
word at `pc` is fetched. `f` is `Rstart`, `done` the entry that executed in this tick. -/
def State.advanceStages (s : State) (f : RegFile) (done : Option Decoded) : State :=
  if stalls done s.decodeL then s
  else
    { s with
      executeL := s.decodeL.map (executeEntry f s.draws)
      decodeL := s.fetchL.map fun e => { pc := e.pc, insn := decodeFetched e.word }
      fetchL := some { pc := s.pc, word := s.fetch s.pc }
      pc := pcIncrement s.pc
      draws := promotionDraws f s.draws s.decodeL }

/-- Step 2 of a Tick with an entry in X (70 R143): a fault, a halt or a taken transfer ends the tick (they have
emptied the latches and set `pc`); otherwise the entry has retired and the stages advance. -/
def executeStage (ex : Meaning) (e : ExecuteEntry) (s : State) : Host.Outcome State Fault Refusal :=
  match perform ex e.insn s with
  | .next t =>
    .next (if !t.running || entryTransfers e.insn s then t else t.advanceStages s.regs (some e.insn))
  | .fault r => .fault r
  | .refused r => .refused r

/-- `Tick()` (70 R143). -/
def tick (ex : Meaning) (s : State) : Host.Outcome State Fault Refusal :=
  if s.settleTick.irqPending then .next s.settleTick.takeIrq
  else
    match s.settleTick.executeL with
    | some e => executeStage ex e s.settleTick
    | none => .next (s.settleTick.advanceStages s.settleTick.regs none)

end Sys2Proof.Machine
end

