-- ==== Sys2Proof/Machine/HostOps.lean ====
section
/-! DEFINITION. The host interface (70_reset_and_hazards.md R150 to R161) and the key arrivals of the terminal
(20_memory.md R63): each event is one atomic action between transitions. A failed precondition "makes the
operation a host-level error with no effect on the core" (R151): the event is gone and `reply` says so. -/

namespace Sys2Proof.Machine

/-- The answer to the last host action. -/
def State.answer (s : State) (r : Reply) : State := { s with reply := r }

/-- A host operation with a precondition: its effect, or the host-level error (R151). -/
def State.guarded (s : State) (ok : Bool) (t : State) : State :=
  if ok then t.answer .ok else s.answer .preconditionFailed

/-- `loadProgram(words, n)` (R152). -/
def State.loadProgram (s : State) (words : List Word) (n : Nat) : State :=
  { s with
    imem := s.imem.writeAll 0 words, progLen := n, pc := 0
    fetchL := none, decodeL := none, executeL := none }

/-- Whether a program can be loaded: the core is stopped, `n <= 16`, and there are `n` words (R152, log 13). -/
def State.canLoadProgram (s : State) (words : List Word) (n : Nat) : Bool :=
  !s.running && decide (n ≤ 16) && words.length == n

/-- A program load from text (R151, 30_encoding.md R84): the assembler's error, or its words and labels. -/
def State.loadText (s : State) (t : Text) : State :=
  match assemble t with
  | .error e => s.answer (.asmError e)
  | .ok p =>
    s.guarded (s.canLoadProgram p.words p.words.length)
      { s.loadProgram p.words p.words.length with labels := p.labels }

/-- `loadRom(cells)` (R153). -/
def State.loadRom (s : State) (cells : List Nibble) : State := { s with rom := s.rom.writeAll 0 cells }

/-- `run` (R154); of a core that runs already, log 12. -/
def State.startRun (s : State) : State := { s with fault := .none, faultPc := 0, running := true }

/-- `stop` (R155). -/
def State.hostStop (s : State) : State :=
  { s with running := false, pc := s.oldestPc, fetchL := none, decodeL := none, executeL := none }

/-- The precondition of `step` and `exec(I)` (R151, R141): stopped, no fault, empty latches. -/
def State.canStep (s : State) : Bool := !s.running && s.fault == .none && s.latchesEmpty

/-- The precondition of `tick` (R151, R143). -/
def State.canTick (s : State) : Bool := s.running && s.fault == .none

/-- The sixteen bus addresses in order. -/
def busAddresses : List Nibble := [0, 1, 2, 3, 4, 5, 6, 7, 8, 9, 10, 11, 12, 13, 14, 15]

/-- The persisted-state record (R159). -/
def State.persist (s : State) : Doc where
  registers := [s.regs.r0.val.toNat, s.regs.r1.val.toNat, s.regs.r2.val.toNat, s.regs.r3.val.toNat]
  pc := s.pc.toNat
  memory := busAddresses.map fun a => (s.peek a).toNat
  labels := s.labels.map fun e => (e.1, e.2.toNat)
  callStack := s.callStack.reverse.map BitVec.toNat
  flagZero := s.zero
  flagCarry := s.carry
  irqMask := s.intr.mask.toNat
  irqStatus := s.intr.status.toNat
  enabled := s.intr.enabled
  inHandler := s.intr.inHandler
  savedPc := s.intr.savedPc.toNat
  savedCarry := s.intr.savedCarry
  savedZero := s.intr.savedZero

/-- A number that fits a nibble. -/
def fitsNibble (n : Nat) : Bool := decide (n < 16)

/-- A document that is not malformed (R160): "Malformed includes a call stack longer than CALL_DEPTH and a
value outside its width". -/
def Doc.accepted (d : Doc) (p : Params) : Bool :=
  d.registers.length == 4 && d.registers.all fitsNibble && fitsNibble d.pc &&
    d.memory.length == 16 && d.memory.all fitsNibble &&
    d.labels.all (fun e => fitsNibble e.2) &&
    decide (d.callStack.length ≤ p.callDepth) && d.callStack.all fitsNibble &&
    fitsNibble d.irqMask && fitsNibble d.irqStatus && fitsNibble d.savedPc

/-- A register restored from a document: its value, floating no more (R160). -/
def restoredCell (values : List Nat) (i : Nat) : RegCell := ⟨BitVec.ofNat 4 (values.getD i 0), false⟩

/-- The ROM after the document's cells are put at their bus addresses, from address `a` on (R160). -/
def restoreRom (p : Params) : Nat → List Nat → Mem 4 → Mem 4
  | _, [], m => m
  | a, v :: vs, m =>
    restoreRom p (a + 1) vs
      (match busRegion p (BitVec.ofNat 4 a) with
        | .rom i => m.write i (BitVec.ofNat 4 v)
        | .ram _ => m
        | .keyStatus => m
        | .keyData => m
        | .charOut => m
        | .unmapped => m)

/-- The RAM after the document's cells are put at their bus addresses, from address `a` on (R160). -/
def restoreRam (p : Params) : Nat → List Nat → Mem 4 → Mem 4
  | _, [], m => m
  | a, v :: vs, m =>
    restoreRam p (a + 1) vs
      (match busRegion p (BitVec.ofNat 4 a) with
        | .ram i => m.write i (BitVec.ofNat 4 v)
        | .rom _ => m
        | .keyStatus => m
        | .keyData => m
        | .charOut => m
        | .unmapped => m)

/-- `loadState` with an accepted document (R160): it "fully replaces live state". -/
def State.restore (s : State) (d : Doc) : State :=
  { s with
    regs :=
      { r0 := restoredCell d.registers 0, r1 := restoredCell d.registers 1
        r2 := restoredCell d.registers 2, r3 := restoredCell d.registers 3 }
    pc := BitVec.ofNat 4 d.pc
    rom := restoreRom s.cfg 0 d.memory s.rom
    ram := restoreRam s.cfg 0 d.memory s.ram
    callStack := (d.callStack.map (BitVec.ofNat 4)).reverse
    carry := d.flagCarry
    zero := d.flagZero
    intr :=
      { mask := BitVec.ofNat 4 d.irqMask, status := BitVec.ofNat 4 d.irqStatus
        enabled := d.enabled, inHandler := d.inHandler, savedPc := BitVec.ofNat 4 d.savedPc
        savedCarry := d.savedCarry, savedZero := d.savedZero }
    fault := .none
    faultPc := 0
    fetchL := none
    decodeL := none
    executeL := none
    labels := d.labels.map fun e => (e.1, BitVec.ofNat 4 e.2) }

/-- The document a path names. -/
def findDoc : List (Text × Doc) → Text → Option Doc
  | [], _ => none
  | e :: rest, path => if e.1 = path then some e.2 else findDoc rest path

/-- The documents with one path written. -/
def putDoc (fs : List (Text × Doc)) (path : Text) (d : Doc) : List (Text × Doc) :=
  (path, d) :: fs.filter fun e => !(e.1 == path)

/-- `save(path)` (R159); a failure to write is an IOError with no effect on the core. -/
def State.hostSave (s : State) (path : Text) (writeFails : Bool) : State :=
  if s.running then s.answer .preconditionFailed
  else if writeFails then s.answer .ioError
  else { s with files := putDoc s.files path s.persist, reply := .ok }

/-- `loadState(path)` (R160): a malformed document is an IOError and changes nothing; so is a missing one (log 14). -/
def State.hostLoadState (s : State) (path : Text) : State :=
  if s.running then s.answer .preconditionFailed
  else
    match findDoc s.files path with
    | none => s.answer .ioError
    | some d => if d.accepted s.cfg then (s.restore d).answer .ok else s.answer .ioError

/-- What an inspection shows (R161): no draw, no key consumed. -/
def State.inspection (s : State) (q : Query) : Reply :=
  match q with
  | .regs =>
    .registers [(s.regs.r0.val, s.regs.r0.floating), (s.regs.r1.val, s.regs.r1.floating),
      (s.regs.r2.val, s.regs.r2.floating), (s.regs.r3.val, s.regs.r3.floating)]
  | .mem => .cells (busAddresses.map s.peek)
  | .memRange lo hi =>
    .cells ((busAddresses.filter fun a => decide (lo.toNat ≤ a.toNat) && decide (a.toNat ≤ hi.toNat)).map s.peek)

/-- One event (R150, R151, 20_memory.md R63), the state without it in `events`. -/
def performEvent (ex : Meaning) (e : Event) (s : State) : Host.Outcome State Fault Refusal :=
  match e with
  | .reset => .next (s.hostReset.answer .ok)
  | .loadProgram words n => .next (s.guarded (s.canLoadProgram words n) (s.loadProgram words n))
  | .loadText t => .next (s.loadText t)
  | .loadRom cells =>
    .next (s.guarded (!s.running && cells.length == s.cfg.romSize) (s.loadRom cells))
  | .run => .next (s.startRun.answer .ok)
  | .stop => .next (s.hostStop.answer .ok)
  | .tick => if s.canTick then tick ex (s.answer .ok) else .next (s.answer .preconditionFailed)
  | .step => if s.canStep then stepOnce ex (s.answer .ok) else .next (s.answer .preconditionFailed)
  | .direct i =>
    if s.canStep && i.wellFormed then ex i (s.answer .ok).settleTick
    else .next (s.answer .preconditionFailed)
  | .raiseIrq line => .next ((s.requestLine line).answer .ok)
  | .setIrqMask m => .next (State.answer { s with intr := { s.intr with mask := m } } .ok)
  | .setIrqEnabled b => .next (State.answer { s with intr := { s.intr with enabled := b } } .ok)
  | .save path writeFails => .next (s.hostSave path writeFails)
  | .loadState path => .next (s.hostLoadState path)
  | .inspect q => .next (s.answer (s.inspection q))
  | .other _ => .next (s.answer .ok)
  | .key k => .next { s with keys := s.keys ++ [k] }

/-- One transition of the whole: the first pending event; with none pending, a Tick of the run loop while the
core runs, and nothing while it is stopped (log 2). -/
def advance (ex : Meaning) (s : State) : Host.Outcome State Fault Refusal :=
  match s.events with
  | e :: rest => performEvent ex e { s with events := rest }
  | [] => if s.canTick then tick ex s else .next s

/-- The state in which the next transition is a Step that fetches the word `w` at `pc` (log 1): the word in
IMEM inside the program's length, the core stopped without a fault and with empty latches, no interrupt due,
and the host's `step` as the next event. -/
def State.placeWord (s : State) (w : Word) : State :=
  { s with
    imem := s.imem.write s.pc.toNat w
    progLen := max s.progLen (s.pc.toNat + 1)
    running := false
    fault := .none
    faultPc := 0
    fetchL := none
    decodeL := none
    executeL := none
    intr := { s.intr with enabled := s.intr.enabled && !s.irqPending }
    events := .step :: s.events }

end Sys2Proof.Machine
end

