-- ==== Sys2Proof/Machine/Step.lean ====
section
/-! DEFINITION. One step of the machine: one atomic transition of the core or of an agent outside it
(70_reset_and_hazards.md R150). -/

namespace Sys2Proof.Machine

/-- One transition (`advance`), with `exec` as the meaning of the instructions. -/
def step (s : State) : Host.Outcome State Fault Refusal := advance exec s

/-- `s` with the instruction word whose low `nbits` bits are those of `w` stored where the next step fetches
its instruction, and all that this takes (log 1). -/
def State.withFetchWord (s : State) (nbits w : Nat) : State := s.placeWord (BitVec.ofNat 16 (w % 2 ^ nbits))

end Sys2Proof.Machine
end

