-- ==== Sys2Proof/Safety.lean ====
section
/-! DEFINITION. What counts as a good state of the machine, and what of a state a program can see, in the terms
the statements use. -/

namespace Sys2Proof.Machine

/-- The invariant of the machine. Its parts are the spec's: bounds of 20_memory.md R39, R40, R46, R47 and
10_state.md R29; the fault latch of R33 and 60_exceptions.md R119; the stopped state of 60 R138; the pipeline
invariant of 70_reset_and_hazards.md R145, R142; the settling of 10_state.md R21. -/
structure State.Inv (s : State) : Prop where
  /-- IMEM has its canonical form and 16 entries at most (20 R39). -/
  imem_wf : s.imem.wf 16 = true
  /-- ROM has its canonical form and ROM_SIZE cells at most (20 R46). -/
  rom_wf : s.rom.wf s.cfg.romSize = true
  /-- RAM has its canonical form and RAM_SIZE cells at most (20 R47). -/
  ram_wf : s.ram.wf s.cfg.ramSize = true
  /-- `0 <= PROG_LEN <= 16` (20 R40). -/
  progLen_le : s.progLen ≤ 16
  /-- The call stack holds CALL_DEPTH entries at most (10 R29). -/
  stack_le : s.callStack.length ≤ s.cfg.callDepth
  /-- A latched fault has stopped the core (60 R119). -/
  fault_stops : s.fault ≠ .none → s.running = false
  /-- The fault address is clear while no fault is latched (10 R33). -/
  faultPc_clear : s.fault = .none → s.faultPc = 0
  /-- "Every piece of state survives a stop unchanged, except that the pipeline latches are emptied" (60 R138). -/
  stopped_empty : s.running = false → s.fetchL = none ∧ s.decodeL = none ∧ s.executeL = none
  /-- "X non-empty implies D non-empty" (70 R145). -/
  execute_then_decode : s.executeL.isSome = true → s.decodeL.isSome = true
  /-- "D non-empty implies F non-empty" (70 R145). -/
  decode_then_fetch : s.decodeL.isSome = true → s.fetchL.isSome = true
  /-- `pc` is one more than F's address (70 R145). -/
  fetch_pc : ∀ f, s.fetchL = some f → s.pc = pcIncrement f.pc
  /-- F's address is one more than D's (70 R145). -/
  decode_pc : ∀ d f, s.decodeL = some d → s.fetchL = some f → f.pc = pcIncrement d.pc
  /-- D's address is one more than X's (70 R145). -/
  execute_pc : ∀ x d, s.executeL = some x → s.decodeL = some d → d.pc = pcIncrement x.pc
  /-- F holds the word that a fetch at its address gives (70 R142, R143). -/
  fetch_word : ∀ f, s.fetchL = some f → f.word = s.fetch f.pc
  /-- D holds the decoding of the word at its address (70 R142, R143). -/
  decode_insn : ∀ d, s.decodeL = some d → d.insn = decodeFetched (s.fetch d.pc)
  /-- X holds the decoding of the word at its address (70 R142, R143). -/
  execute_insn : ∀ x, s.executeL = some x → x.insn = decodeFetched (s.fetch x.pc)
  /-- X holds a value for each register its entry reads, and for no other (70 R142). -/
  execute_ops : ∀ x, s.executeL = some x → x.ops.map Prod.fst = entrySources x.insn
  /-- "When `settle` reaches 0 ... every register still floating stops floating" (10 R21). -/
  settled : s.settle = 0 → ∀ r, (s.regs.get r).floating = false

/-! What an instruction's end looks like in the statements, said without the model's own operations. -/

/-- After `next` (00_scope.md R12): under Step the pc is one more, modulo 16; under Tick, where the fetch moves
the pc, the entry of X has retired. -/
def State.wentOn (s : State) : State :=
  { s with pc := if s.executeL.isSome then s.pc else s.pc + 1, executeL := none }

/-- After `pc <- t` (00_scope.md R12), with nothing left in the latches (70_reset_and_hazards.md R143). -/
def State.wentTo (s : State) (t : Nibble) : State :=
  { s with pc := t, fetchL := none, decodeL := none, executeL := none }

/-- After the core has stopped at the instruction at `p` (43_system.md R113, R116). -/
def State.stoppedAt (s : State) (p : Nibble) : State :=
  { s with running := false, pc := p, fetchL := none, decodeL := none, executeL := none }

/-- After a fault `c` of the instruction at `p` (60_exceptions.md R119). -/
def State.faultedAt (s : State) (p : Nibble) (c : FaultCode) : State :=
  { s.stoppedAt p with fault := c, faultPc := p }

/-- After an ALU instruction on operands `a` and `b` that writes `result`, C and Z (40_alu.md R88, 10_state.md
R34), `draws` free values drawn. -/
def State.computed (s : State) (op : AluOp) (ra : Reg) (a b : Nibble) (draws : Nat) (result : Nibble)
    (c z : Bool) : State :=
  State.wentOn
    { s with
      regs := s.regs.set ra ⟨result, false⟩, carry := c, zero := z, aluA := a, aluB := b, aluOp := op
      draws := draws }

/-- The two forms of an ALU instruction (40_alu.md R88): `b` is the register rb, or the immediate. `f` gives the
result, C and Z of the operands. -/
def aluForms (op : AluOp) (regForm : Reg → Reg → Instr) (immForm : Reg → Nibble → Instr)
    (f : Nibble → Nibble → Nibble × Bool × Bool) : Prop :=
  (∀ (ra rb : Reg) (s : State),
    exec (regForm ra rb) s =
      .next (s.computed op ra (s.regValue ra) (s.pairSecond ra rb) (s.pairDraws ra rb)
        (f (s.regValue ra) (s.pairSecond ra rb)).1 (f (s.regValue ra) (s.pairSecond ra rb)).2.1
        (f (s.regValue ra) (s.pairSecond ra rb)).2.2)) ∧
  (∀ (ra : Reg) (k : Nibble) (s : State),
    exec (immForm ra k) s =
      .next (s.computed op ra (s.regValue ra) k (s.regDraws ra)
        (f (s.regValue ra) k).1 (f (s.regValue ra) k).2.1 (f (s.regValue ra) k).2.2))

/-- The two forms of a transfer to a target (42_control_transfer.md R102): the state after it as a function of
the target and the state after the target is read. -/
def transferForms (regForm : Reg → Instr) (absForm : Nibble → Instr) (f : Nibble → State → State) : Prop :=
  (∀ (rb : Reg) (s : State),
    exec (regForm rb) s = .next (f (s.regValue rb) { s with draws := s.regDraws rb })) ∧
  (∀ (t : Nibble) (s : State), exec (absForm t) s = .next (f t s))

/-- The number of a register (10_state.md R16, 30_encoding.md R71). -/
def regNumber : Reg → Nat
  | .r0 => 0
  | .r1 => 1
  | .r2 => 2
  | .r3 => 3

/-- Each form listed encodes to its match value plus its fields in their places (30_encoding.md R77, R74, R69). -/
def encodesWith (fields : Nat) (forms : List (Instr × Nat)) : Prop :=
  ∀ form ∈ forms, (encode form.1).toNat = form.2 + fields

/-- The registers that each form listed reads are those of the list, each once (30_encoding.md R78). -/
def readsExactly (rs : List Reg) (forms : List Instr) : Prop :=
  ∀ i ∈ forms, (entrySources (.insn i)).Nodup ∧ ∀ r, r ∈ entrySources (.insn i) ↔ r ∈ rs

/-- The register that each form listed writes, if any (30_encoding.md R79). -/
def writesExactly (dest : Option Reg) (forms : List Instr) : Prop :=
  ∀ i ∈ forms, destination i = dest ∧ entryDestination (.insn i) = dest

/-- The register form of an ALU operation (40_alu.md R88). -/
def aluRegForm (op : AluOp) (ra rb : Reg) : Instr :=
  match op with
  | .add => .addR ra rb
  | .sub => .subR ra rb
  | .mul => .mulR ra rb
  | .and => .andR ra rb
  | .or => .orR ra rb
  | .xor => .xorR ra rb
  | .cmp => .cmpR ra rb

/-- The immediate form of an ALU operation (40_alu.md R88). -/
def aluImmForm (op : AluOp) (ra : Reg) (k : Nibble) : Instr :=
  match op with
  | .add => .addI ra k
  | .sub => .subI ra k
  | .mul => .mulI ra k
  | .and => .andI ra k
  | .or => .orI ra k
  | .xor => .xorI ra k
  | .cmp => .cmpI ra k

/-- The precondition of `tick` (70_reset_and_hazards.md R151, R143). -/
abbrev State.mayTick (s : State) : Prop := s.running = true ∧ s.fault = .none

/-- The precondition of `step` and `exec(I)` (70_reset_and_hazards.md R151), with the empty latches of R141 (log 21). -/
abbrev State.mayStep (s : State) : Prop :=
  s.running = false ∧ s.fault = .none ∧ s.fetchL = none ∧ s.decodeL = none ∧ s.executeL = none

/-- The next step of `s` is a Tick that starts from `b`, where the core can tick: the tick of the run loop, with no
action pending (log 2), or the host's `tick` (70_reset_and_hazards.md R151), which is answered (log 11). -/
def State.ticksFrom (s b : State) : Prop :=
  b.mayTick ∧
    ((s.events = [] ∧ b = s) ∨ ∃ rest, s.events = .tick :: rest ∧ b = { s with events := rest, reply := .ok })

/-- Step 4 of a Tick (70_reset_and_hazards.md R143): `u` is `t` after D has moved to X with the operands that the
register file `f` (`Rstart`) holds for its sources, F to D with its word decoded, and the fetch at `pc` to F, `pc`
one more. The operands of registers that float are free values, each drawn in this tick (log 3). -/
def State.advancesTo (t : State) (f : RegFile) (u : State) : Prop :=
  u = { t with
      executeL := u.executeL
      decodeL := t.fetchL.map fun e =>
        { pc := e.pc
          insn :=
            match e.word with
            | .word w => decode w
            | .endMark => .endMark }
      fetchL := some
        { pc := t.pc
          word := if t.pc.toNat < t.progLen then .word (t.imemWord t.pc.toNat) else .endMark }
      pc := t.pc + 1
      draws := u.draws } ∧
  (t.decodeL = none → u.executeL = none ∧ u.draws = t.draws) ∧
  (∀ d, t.decodeL = some d → ∃ x, u.executeL = some x ∧ x.pc = d.pc ∧ x.insn = d.insn ∧
    (x.ops, u.draws) = readOperands f (entrySources d.insn) t.draws ∧
    x.ops.map Prod.fst = entrySources d.insn ∧
    (∀ r ∈ entrySources d.insn, (f.get r).floating = false → lookupOperand x.ops r = some (f.get r).val) ∧
    ∀ r ∈ entrySources d.insn, (f.get r).floating = true →
      ∃ n, t.draws ≤ n ∧ n < u.draws ∧ lookupOperand x.ops r = some (Config.draw n))

/-- What a program's run has computed: the registers, flags, call stack, interrupt state, memories, terminal
traffic and fault, without what only paces the core (the program counter and `running`, which Step and Tick
use differently, the latches, the settle counter and the model's own fields). -/
@[ext]
structure ArchView where
  regs : RegFile
  carry : Bool
  zero : Bool
  callStack : List Nibble
  intr : InterruptState
  rom : Mem 4
  ram : Mem 4
  imem : Mem 16
  progLen : Nat
  keys : List Nibble
  display : List Nibble
  fault : FaultCode
  faultPc : Nibble
  deriving DecidableEq, Repr

/-- The part of a state that 70_reset_and_hazards.md R147 says Step and Tick agree on. -/
def State.arch (s : State) : ArchView where
  regs := s.regs
  carry := s.carry
  zero := s.zero
  callStack := s.callStack
  intr := s.intr
  rom := s.rom
  ram := s.ram
  imem := s.imem
  progLen := s.progLen
  keys := s.keys
  display := s.display
  fault := s.fault
  faultPc := s.faultPc

end Sys2Proof.Machine
end

