-- ==== Sys2Proof/Certificates/Slice0/Obligations.lean ====
section
/-! DEFINITION. The statements for the provers. Each docstring names the rule of spec/ it formalises; where a
statement rests on a choice of the model, it names the entry of notes/assumptions. -/

open Sys2Proof Sys2Proof.Machine

/-! Encoding and text (30_encoding.md). -/

/-- R77: each form's word is its match value in R74 with RA, RB and IMM in the places of R69, and "For any Insn whose
fields satisfy its row, `Decode(Encode(i)) = i`". -/
def Obligations.DecodeOfEncodeIsTheInstruction : Prop :=
  (∀ i : Instr, i.wellFormed = true → decode (encode i) = .insn i) ∧
  (∀ (ra rb : Reg) (k : Nibble),
    encodesWith (64 * regNumber ra + 16 * regNumber rb)
      [(.addR ra rb, 0x1000), (.subR ra rb, 0x2000), (.mulR ra rb, 0x3000), (.andR ra rb, 0x4000),
        (.orR ra rb, 0x5000), (.xorR ra rb, 0x6000), (.cmpR ra rb, 0x7000), (.movR ra rb, 0x8000),
        (.loadR ra rb, 0x9000), (.storeR ra rb, 0xA000)] ∧
    encodesWith (64 * regNumber ra + k.toNat)
      [(.addI ra k, 0x1800), (.subI ra k, 0x2800), (.mulI ra k, 0x3800), (.andI ra k, 0x4800), (.orI ra k, 0x5800),
        (.xorI ra k, 0x6800), (.cmpI ra k, 0x7800), (.movI ra k, 0x8800), (.loadI ra k, 0x9800),
        (.storeI ra k, 0xA800)] ∧
    encodesWith (16 * regNumber rb)
      [(.jmpR rb, 0xB000), (.jzR rb, 0xC000), (.jnzR rb, 0xC100), (.jcR rb, 0xC200), (.callR rb, 0xD000)] ∧
    encodesWith k.toNat
      [(.jmpI k, 0xB800), (.jzI k, 0xC800), (.jnzI k, 0xC900), (.jcI k, 0xCA00), (.callI k, 0xD800)] ∧
    encodesWith 0 [(.nop, 0x0000), (.ret, 0xE000), (.iret, 0xE100), (.hlt, 0xF000)] ∧
    (k.toNat < 4 → encodesWith k.toNat [(.irq k, 0xF100)]))

/-- R77: "For any legal w, `Encode(Decode(w)) = w`"; "Decode is injective on legal words". -/
def Obligations.EncodeOfDecodeIsTheWord : Prop :=
  (∀ (w : Word) (i : Instr), decode w = .insn i → encode i = w ∧ i.wellFormed = true) ∧
  (∀ (v w : Word) (i : Instr), decode v = .insn i → decode w = .insn i → v = w)

/-- R74: "No two rows match the same word"; the table has 35 rows. -/
def Obligations.NoTwoEncodingRowsMatchOneWord : Prop :=
  encodingRows.length = 35 ∧
  ∀ w : Word, encodingRows.Pairwise fun r q => ¬ (r.covers w = true ∧ q.covers w = true)

/-- R75: the illegal words are exactly those its eight points describe. -/
def Obligations.IllegalWordsAreThoseOfTheList : Prop :=
  ∀ w : Word,
    let op : Nat := (w.extractLsb' 12 4).toNat
    let m : Bool := w.getLsbD 11
    let f : Nat := (w.extractLsb' 8 3).toNat
    let ra : Nat := (w.extractLsb' 6 2).toNat
    let rb : Nat := (w.extractLsb' 4 2).toNat
    let imm : Nat := (w.extractLsb' 0 4).toNat
    let twoForm : Prop := 1 ≤ op ∧ op ≤ 13
    let transfer : Prop := 11 ≤ op ∧ op ≤ 13
    decode w = .illegal w ↔
      (op = 0 ∧ w ≠ 0) ∨
      (((1 ≤ op ∧ op ≤ 11) ∨ op = 13) ∧ f ≠ 0) ∨
      (op = 12 ∧ 3 ≤ f) ∨
      (op = 14 ∧ (1 < f ∨ m = true ∨ ra ≠ 0 ∨ rb ≠ 0 ∨ imm ≠ 0)) ∨
      (op = 15 ∧ (1 < f ∨ m = true ∨ ra ≠ 0 ∨ rb ≠ 0 ∨ (f = 0 ∧ imm ≠ 0) ∨ 4 ≤ imm)) ∨
      (twoForm ∧ m = false ∧ imm ≠ 0) ∨
      (twoForm ∧ m = true ∧ rb ≠ 0) ∨
      (transfer ∧ ra ≠ 0)

/-- R74, R76: one word of each of the 35 rows, written out from the fields of R69, and three illegal words; those of
95_test_vectors.md section 2 among them. -/
def Obligations.SampleWordsDecode : Prop :=
  decode 0x0000 = .insn .nop ∧
  decode 0x1010 = .insn (.addR .r0 .r1) ∧ decode 0x1889 = .insn (.addI .r2 9) ∧
  decode 0x20D0 = .insn (.subR .r3 .r1) ∧ decode 0x2801 = .insn (.subI .r0 1) ∧
  decode 0x3060 = .insn (.mulR .r1 .r2) ∧ decode 0x3884 = .insn (.mulI .r2 4) ∧
  decode 0x4030 = .insn (.andR .r0 .r3) ∧ decode 0x48C6 = .insn (.andI .r3 6) ∧
  decode 0x5090 = .insn (.orR .r2 .r1) ∧ decode 0x5846 = .insn (.orI .r1 6) ∧
  decode 0x6040 = .insn (.xorR .r1 .r0) ∧ decode 0x680F = .insn (.xorI .r0 15) ∧
  decode 0x7010 = .insn (.cmpR .r0 .r1) ∧ decode 0x7802 = .insn (.cmpI .r0 2) ∧
  decode 0x80B0 = .insn (.movR .r2 .r3) ∧ decode 0x880F = .insn (.movI .r0 15) ∧ decode 0x88C2 = .insn (.movI .r3 2) ∧
  decode 0x9010 = .insn (.loadR .r0 .r1) ∧ decode 0x9842 = .insn (.loadI .r1 2) ∧
  decode 0xA010 = .insn (.storeR .r0 .r1) ∧ decode 0xA84F = .insn (.storeI .r1 15) ∧
  decode 0xB030 = .insn (.jmpR .r3) ∧ decode 0xB805 = .insn (.jmpI 5) ∧
  decode 0xC020 = .insn (.jzR .r2) ∧ decode 0xC803 = .insn (.jzI 3) ∧
  decode 0xC110 = .insn (.jnzR .r1) ∧ decode 0xC902 = .insn (.jnzI 2) ∧
  decode 0xC230 = .insn (.jcR .r3) ∧ decode 0xCA08 = .insn (.jcI 8) ∧
  decode 0xD010 = .insn (.callR .r1) ∧ decode 0xD804 = .insn (.callI 4) ∧
  decode 0xE000 = .insn .ret ∧ decode 0xE100 = .insn .iret ∧ decode 0xF000 = .insn .hlt ∧
  decode 0xF103 = .insn (.irq 3) ∧
  decode 0x0001 = .illegal 0x0001 ∧ decode 0xB040 = .illegal 0xB040 ∧ decode 0xF104 = .illegal 0xF104

/-- R85: "For every legal word w, `Assemble(Format(Decode(w))) = w`", with the text of one instruction of each of the 35
forms (R74, R81, R82, R85), the literals of R83, a label (R80, R82, R84), and texts that R81 to R84 reject. -/
def Obligations.AssembleOfFormatIsTheWord : Prop :=
  (∀ (w : Word) (i : Instr), decode w = .insn i → assemble (format i) = .ok { words := [w], labels := [] }) ∧
  (∀ p ∈ [(Instr.nop, "nop"), (.addR .r0 .r1, "add r0 r1"), (.addI .r2 9, "add r2 1001"),
      (.subR .r3 .r1, "sub r3 r1"), (.subI .r0 1, "sub r0 0001"), (.mulR .r1 .r2, "mul r1 r2"),
      (.mulI .r2 4, "mul r2 0100"), (.andR .r0 .r3, "and r0 r3"), (.andI .r3 6, "and r3 0110"),
      (.orR .r2 .r1, "or r2 r1"), (.orI .r1 6, "or r1 0110"), (.xorR .r1 .r0, "xor r1 r0"),
      (.xorI .r0 15, "xor r0 1111"), (.cmpR .r0 .r1, "cmp r0 r1"), (.cmpI .r0 2, "cmp r0 0010"),
      (.movR .r2 .r3, "mov r2 r3"), (.movI .r3 2, "mov r3 0010"), (.loadR .r0 .r1, "load r0 [r1]"),
      (.loadI .r1 2, "load r1 [0010]"), (.storeR .r0 .r1, "store [r1] r0"), (.storeI .r1 15, "store [1111] r1"),
      (.jmpR .r3, "jmp r3"), (.jmpI 5, "jmp 0101"), (.jzR .r2, "jz r2"), (.jzI 3, "jz 0011"), (.jnzR .r1, "jnz r1"),
      (.jnzI 2, "jnz 0010"), (.jcR .r3, "jc r3"), (.jcI 8, "jc 1000"), (.callR .r1, "call r1"),
      (.callI 4, "call 0100"), (.ret, "ret"), (.iret, "iret"), (.hlt, "hlt"), (.irq 1, "irq 1")],
    format p.1 = p.2.toList) ∧
  (∀ p ∈ [("mov r0 1111", 0x880F), ("mov r0 0x0F", 0x880F), ("mov r0 15", 0x880F), ("mov r0 10", 0x880A),
      ("mov r0 0101", 0x8805), ("irq 3", 0xF103)],
    assemble p.1.toList = .ok { words := [p.2], labels := [] }) ∧
  assemble "nop | loop: | sub r0 1\njnz @loop\njmp loop".toList =
    .ok { words := [0x0000, 0x2801, 0xC901, 0xB801], labels := [("loop".toList, 1)] } ∧
  (∀ t ∈ ["mov r0 100", "mov r4 1", "foo", "add r0", "load [2] r0", "irq 4"],
    ∃ e, assemble t.toList = .error (.parse e)) ∧
  assemble "jmp nowhere".toList = .error (.resolution "nowhere".toList)

/-! The ALU (40_alu.md). -/

/-- R87: the adder is a chain of four full adders, and its sum and carry-out are those of the integers. -/
def Obligations.AdderIsAdditionOfNibbles : Prop :=
  ∀ (a b : Nibble) (cin : Bool),
    (adder a b cin).1 = BitVec.ofNat 4 ((a.toNat + b.toNat + cin.toNat) % 16) ∧
    (adder a b cin).2 = decide (16 ≤ a.toNat + b.toNat + cin.toNat) ∧
    ∃ c : Nat → Bool, c 0 = cin ∧ c 4 = (adder a b cin).2 ∧
      ∀ i, i < 4 →
        (adder a b cin).1.getLsbD i = ((a.getLsbD i ^^ b.getLsbD i) ^^ c i) ∧
        c (i + 1) = ((a.getLsbD i && b.getLsbD i) || (c i && (a.getLsbD i ^^ b.getLsbD i)))

/-- 10_state.md R24: the increment, "wrapping 15→0", is the adder with b = 0000 and carry-in 1; no flag is set. -/
def Obligations.PcIncrementIsPlusOneModSixteen : Prop :=
  (∀ p : Nibble, pcIncrement p = BitVec.ofNat 4 ((p.toNat + 1) % 16) ∧ pcIncrement p = (adder p 0 true).1) ∧
  (∀ s : State, s.next.carry = s.carry ∧ s.next.zero = s.zero)

/-- R90: `add`, both forms. C is the carry-out, Z the zero of the 4-bit result; nothing else changes. -/
def Obligations.AddResult : Prop :=
  aluForms .add .addR .addI fun a b =>
    (BitVec.ofNat 4 ((a.toNat + b.toNat) % 16), decide (16 ≤ a.toNat + b.toNat),
      decide ((a.toNat + b.toNat) % 16 = 0))

/-- R91: `sub`, both forms. C = (a < b), Z = (a == b); nothing else changes. -/
def Obligations.SubResult : Prop :=
  aluForms .sub .subR .subI fun a b =>
    (BitVec.ofInt 4 ((a.toNat : Int) - b.toNat), decide (a.toNat < b.toNat), decide (a = b))

/-- R92: `mul`, both forms. C = (product > 15), Z = (product == 0); nothing else changes. -/
def Obligations.MulResult : Prop :=
  aluForms .mul .mulR .mulI fun a b =>
    (BitVec.ofNat 4 ((a.toNat * b.toNat) % 16), decide (15 < a.toNat * b.toNat), decide (a.toNat * b.toNat = 0))

/-- R93: `and`, both forms: bit by bit; C cleared, Z of the result; nothing else changes. -/
def Obligations.AndResult : Prop :=
  aluForms .and .andR .andI fun a b => (a &&& b, false, decide (a &&& b = 0))

/-- R94: `or`, both forms: bit by bit; C cleared, Z of the result; nothing else changes. -/
def Obligations.OrResult : Prop :=
  aluForms .or .orR .orI fun a b => (a ||| b, false, decide (a = 0 ∧ b = 0))

/-- R95: `xor`, both forms: bit by bit; C cleared, Z of the result; nothing else changes. -/
def Obligations.XorResult : Prop :=
  aluForms .xor .xorR .xorI fun a b => (a ^^^ b, false, decide (a = b))

/-- R96: `cmp`, both forms: C = (a < b), Z = (a == b), no register written; nothing else changes. Executed
again on registers that do not float, with X empty, the register form gives the same flags. -/
def Obligations.CmpResult : Prop :=
  (∀ (ra rb : Reg) (s : State),
    exec (.cmpR ra rb) s =
      .next (State.wentOn
        { s with
          carry := decide ((s.regValue ra).toNat < (s.pairSecond ra rb).toNat)
          zero := decide (s.regValue ra = s.pairSecond ra rb), draws := s.pairDraws ra rb })) ∧
  (∀ (ra : Reg) (k : Nibble) (s : State),
    exec (.cmpI ra k) s =
      .next (State.wentOn
        { s with
          carry := decide ((s.regValue ra).toNat < k.toNat), zero := decide (s.regValue ra = k)
          draws := s.regDraws ra })) ∧
  (∀ (ra rb : Reg) (s t u : State),
    s.executeL = none → (s.regs.get ra).floating = false → (s.regs.get rb).floating = false →
    exec (.cmpR ra rb) s = .next t → exec (.cmpR ra rb) t = .next u →
      u.regs = s.regs ∧ u.carry = t.carry ∧ u.zero = t.zero)

/-! Registers (10_state.md section 1). -/

/-- R19, 70 R142, 40 R88: what an instruction reads as `x[r]`: X's operand under Tick, the register under Step, a
fresh free value while it floats; one read when the two operands are one register, else the second operand is read in
the same way after the first. The counter of free values is the model's (log 3), the order of the reads log 7. -/
def Obligations.RegisterReadValue : Prop :=
  (∀ (s : State) (e : ExecuteEntry) (r : Reg) (v : Nibble),
    s.executeL = some e → lookupOperand e.ops r = some v → s.regValue r = v ∧ s.regDraws r = s.draws) ∧
  (∀ (s : State) (r : Reg), s.executeL = none → (s.regs.get r).floating = false →
    s.regValue r = (s.regs.get r).val ∧ s.regDraws r = s.draws) ∧
  (∀ (s : State) (r : Reg), s.executeL = none → (s.regs.get r).floating = true →
    s.regValue r = Config.draw s.draws ∧ s.regDraws r = s.draws + 1) ∧
  (∀ (s : State) (r : Reg), s.pairSecond r r = s.regValue r ∧ s.pairDraws r r = s.regDraws r) ∧
  (∀ (s : State) (r q : Reg), s.executeL = none → r ≠ q →
    (s.regs.get r).floating = true → (s.regs.get q).floating = true →
    s.pairSecond r q = Config.draw (s.draws + 1) ∧ s.pairDraws r q = s.draws + 2) ∧
  (∀ (s : State) (e : ExecuteEntry) (r q : Reg) (v : Nibble), s.executeL = some e → r ≠ q →
    lookupOperand e.ops q = some v → s.pairSecond r q = v ∧ s.pairDraws r q = s.regDraws r) ∧
  (∀ (s : State) (r q : Reg), s.executeL = none → r ≠ q → (s.regs.get q).floating = false →
    s.pairSecond r q = (s.regs.get q).val ∧ s.pairDraws r q = s.regDraws r) ∧
  (∀ (s : State) (r q : Reg), s.executeL = none → r ≠ q → (s.regs.get q).floating = true →
    s.pairSecond r q = Config.draw (s.regDraws r) ∧ s.pairDraws r q = s.regDraws r + 1)

/-- R20: "sets `val[i] <- v` and `floating[i] <- false`"; the other registers keep their cells. -/
def Obligations.RegisterWriteSetsOneRegister : Prop :=
  ∀ (s : State) (r : Reg) (v : Nibble),
    ((s.writeReg r v).regs.get r = ⟨v, false⟩) ∧
    ∀ q, q ≠ r → (s.writeReg r v).regs.get q = s.regs.get q

/-- R21: the settle counter falls by one until 0; at 0 no register floats, with its value as it was. -/
def Obligations.SettlingEndsFloating : Prop :=
  ∀ s : State,
    s.settleTick.settle = s.settle - 1 ∧
    (∀ r, (s.settleTick.regs.get r).val = (s.regs.get r).val) ∧
    (s.settle ≤ 1 → ∀ r, (s.settleTick.regs.get r).floating = false) ∧
    (1 < s.settle → s.settleTick.regs = s.regs) ∧
    s.settleTick = { s with settle := s.settleTick.settle, regs := s.settleTick.regs }

/-- 30_encoding.md R79: a register that is not an instruction's destination keeps its cell; R78: what an instruction does
depends on no register outside its sources. Both sets are those of R78's table and of R79, form by form. That
`store [rA] rA` reads rA once is the model's choice (log 7). -/
def Obligations.OnlyTheDestinationRegisterChanges : Prop :=
  (∀ (i : Instr) (s t : State) (r : Reg),
    exec i s = .next t → destination i ≠ some r → t.regs.get r = s.regs.get r) ∧
  (∀ (i : Instr) (s : State) (f : RegFile), (∀ r ∈ sources i, f.get r = s.regs.get r) →
    ∃ t u : State, exec i s = .next t ∧ exec i { s with regs := f } = .next u ∧ u = { t with regs := u.regs } ∧
      ∀ r, destination i = some r → u.regs.get r = t.regs.get r) ∧
  (∀ (ra rb : Reg) (k : Nibble),
    readsExactly [ra, rb]
      [.addR ra rb, .subR ra rb, .mulR ra rb, .andR ra rb, .orR ra rb, .xorR ra rb, .cmpR ra rb, .storeR ra rb] ∧
    readsExactly [ra]
      [.addI ra k, .subI ra k, .mulI ra k, .andI ra k, .orI ra k, .xorI ra k, .cmpI ra k, .storeI ra k] ∧
    readsExactly [rb] [.movR ra rb, .loadR ra rb, .jmpR rb, .jzR rb, .jnzR rb, .jcR rb, .callR rb] ∧
    readsExactly []
      [.movI ra k, .loadI ra k, .jmpI k, .jzI k, .jnzI k, .jcI k, .callI k, .nop, .ret, .iret, .hlt, .irq k] ∧
    writesExactly (some ra)
      [.addR ra rb, .addI ra k, .subR ra rb, .subI ra k, .mulR ra rb, .mulI ra k, .andR ra rb, .andI ra k, .orR ra rb,
        .orI ra k, .xorR ra rb, .xorI ra k, .movR ra rb, .movI ra k, .loadR ra rb, .loadI ra k] ∧
    writesExactly none
      [.cmpR ra rb, .cmpI ra k, .storeR ra rb, .storeI ra k, .jmpR rb, .jmpI k, .jzR rb, .jzI k, .jnzR rb, .jnzI k,
        .jcR rb, .jcI k, .callR rb, .callI k, .nop, .ret, .iret, .hlt, .irq k]) ∧
  (∀ w : Word, entrySources (.illegal w) = [] ∧ entryDestination (.illegal w) = none) ∧
  entrySources .endMark = [] ∧ entryDestination .endMark = none

/-! Data movement and the bus (41_data_movement.md, 20_memory.md). -/

/-- R99: `mov`, both forms: the destination is written and floats no more; nothing else changes. -/
def Obligations.MovResult : Prop :=
  (∀ (ra rb : Reg) (s : State),
    exec (.movR ra rb) s =
      .next (State.wentOn { s with regs := s.regs.set ra ⟨s.regValue rb, false⟩, draws := s.regDraws rb })) ∧
  (∀ (ra : Reg) (k : Nibble) (s : State),
    exec (.movI ra k) s = .next (State.wentOn { s with regs := s.regs.set ra ⟨k, false⟩ }))

/-- R100: `load`, both forms: the destination gets what the bus read gives at EA; the key buffer may lose its
oldest key; nothing else changes. -/
def Obligations.LoadResult : Prop :=
  (∀ (ra rb : Reg) (s : State),
    exec (.loadR ra rb) s =
      .next (State.wentOn
        { s with
          regs := s.regs.set ra ⟨s.busValue (s.regValue rb), false⟩
          keys := s.keysAfterRead (s.regValue rb), draws := s.regDraws rb })) ∧
  (∀ (ra : Reg) (k : Nibble) (s : State),
    exec (.loadI ra k) s =
      .next (State.wentOn
        { s with regs := s.regs.set ra ⟨s.busValue k, false⟩, keys := s.keysAfterRead k }))

/-- R101: `store`, both forms, at EA with data x[ra]: RAM and the terminal change as R45 says, nothing else does,
and every bus address other than EA reads as before. That `store [rA] rA` reads a floating rA once is the model's
choice (log 7), not R101's. -/
def Obligations.StoreResult : Prop :=
  (∀ (ra rb : Reg) (s : State), ∃ t : State,
    exec (.storeR ra rb) s = .next t ∧
    t = State.wentOn
      { s with
        ram := s.ramAfterWrite (s.pairSecond ra rb) (s.regValue ra)
        display := s.displayAfterWrite (s.pairSecond ra rb) (s.regValue ra), draws := s.pairDraws ra rb } ∧
    ∀ a, a ≠ s.pairSecond ra rb → t.peek a = s.peek a) ∧
  (∀ (ra : Reg) (k : Nibble) (s : State), ∃ t : State,
    exec (.storeI ra k) s = .next t ∧
    t = State.wentOn
      { s with
        ram := s.ramAfterWrite k (s.regValue ra)
        display := s.displayAfterWrite k (s.regValue ra), draws := s.regDraws ra } ∧
    ∀ a, a ≠ k → t.peek a = s.peek a)

/-- R44, with R51: what a bus read gives, the first match of the fixed order, and the key it consumes. -/
def Obligations.BusReadByAddress : Prop :=
  ∀ (s : State) (a : Nibble),
    (s.busValue a =
      if a = s.cfg.keyStatus then (if s.keys = [] then 0b0000 else 0b0001)
      else if a = s.cfg.keyData then s.keys.headD 0
      else if a = s.cfg.charOut then 0
      else if a.toNat < s.cfg.romSize then s.romCell a.toNat
      else if a.toNat < s.cfg.romSize + s.cfg.ramSize then s.ramCell (a.toNat - s.cfg.romSize)
      else 0) ∧
    (s.afterBusRead a =
      { s with keys := if a ≠ s.cfg.keyStatus ∧ a = s.cfg.keyData then s.keys.tail else s.keys })

/-- R45: what a bus write does, under parameters that meet the constraints of 00_scope.md R8: to CHAR_OUT the
nibble goes to the terminal, KEY_STATUS, KEY_DATA and ROM ignore it, a RAM cell gets it, an unmapped address
ignores it. -/
def Obligations.BusWriteByAddress : Prop :=
  ∀ (s : State) (a v : Nibble), s.cfg.valid = true →
    if a = s.cfg.charOut then s.busWrite a v = { s with display := s.display ++ [v] }
    else if a = s.cfg.keyStatus ∨ a = s.cfg.keyData then s.busWrite a v = s
    else if a.toNat < s.cfg.romSize then s.busWrite a v = s
    else if a.toNat < s.cfg.romSize + s.cfg.ramSize then
      (s.busWrite a v = { s with ram := (s.busWrite a v).ram }) ∧
      (s.busWrite a v).ramCell (a.toNat - s.cfg.romSize) = v ∧
      ∀ j, j ≠ a.toNat - s.cfg.romSize → (s.busWrite a v).ramCell j = s.ramCell j
    else s.busWrite a v = s

/-- R54: the default address map. -/
def Obligations.DefaultAddressMap : Prop :=
  ∀ a : Nibble, busRegion Config.params a =
    if a.toNat < 2 then .rom a.toNat
    else if a.toNat < 12 then .ram (a.toNat - 2)
    else if a.toNat = 12 then .unmapped
    else if a.toNat = 13 then .keyStatus
    else if a.toNat = 14 then .keyData
    else .charOut

/-- R62: "A load therefore sees the value of the most recent store, in program order, to the same RAM address": a load
right after a store, each in its direct or its register form. That `store [rA] rA` reads a floating rA once is the
model's choice (log 7). -/
def Obligations.LoadAfterStoreSeesTheValue : Prop :=
  ∀ (s : State) (store : Instr) (ra : Reg) (ea : Nibble) (i : Nat), busRegion s.cfg ea = .ram i →
    (store = .storeI ra ea ∨ ∃ rp, store = .storeR ra rp ∧ s.pairSecond ra rp = ea) →
    ∃ t : State, exec store s = .next t ∧
      ∀ (load : Instr) (rb : Reg), (load = .loadI rb ea ∨ ∃ rq, load = .loadR rb rq ∧ t.regValue rq = ea) →
        ∃ u : State, exec load t = .next u ∧ u.regs.get rb = ⟨s.regValue ra, false⟩ ∧ u.ram = t.ram

/-- R50, R51, R63: a KEY_STATUS read consumes nothing, and the KEY_DATA read after it takes the oldest key. -/
def Obligations.KeyStatusThenKeyData : Prop :=
  ∀ (s : State) (ra rb : Reg), s.cfg.keyStatus ≠ s.cfg.keyData →
    ∃ t u : State, exec (.loadI ra s.cfg.keyStatus) s = .next t ∧ exec (.loadI rb s.cfg.keyData) t = .next u ∧
      (t.regs.get ra).val = (if s.keys = [] then 0 else 1) ∧ t.keys = s.keys ∧
      (u.regs.get rb).val = s.keys.headD 0 ∧ u.keys = s.keys.tail

/-- 20_memory.md R42, R59, R63: only a load consumes a key and only at KEY_DATA; only a store writes RAM or the
terminal, the terminal only at CHAR_OUT. That `store [rA] rA` reads a floating rA once, for its address and its data,
is the model's choice (log 7). -/
def Obligations.OnlyLoadAndStoreReachTheBus : Prop :=
  ∀ (i : Instr) (s t : State), exec i s = .next t →
    (i.kind ≠ .load → t.keys = s.keys) ∧
    (i.kind ≠ .store → t.ram = s.ram ∧ t.display = s.display) ∧
    (t.keys ≠ s.keys → ∃ (ra : Reg) (ea : Nibble),
      (i = .loadI ra ea ∨ ∃ rb, i = .loadR ra rb ∧ ea = s.regValue rb) ∧
      busRegion s.cfg ea = .keyData ∧ t.keys = s.keys.tail) ∧
    (t.display ≠ s.display → ∃ (ra : Reg) (ea : Nibble),
      (i = .storeI ra ea ∨ ∃ rb, i = .storeR ra rb ∧ ea = s.pairSecond ra rb) ∧
      busRegion s.cfg ea = .charOut ∧ t.display = s.display ++ [s.regValue ra])

/-! Control transfer (42_control_transfer.md). -/

/-- R106: `jmp`, both forms: the pc is the target; nothing else changes but the latches, which are squashed. -/
def Obligations.JmpResult : Prop :=
  transferForms .jmpR .jmpI fun t s => s.wentTo t

/-- R107, R108, R109: `jz`, `jnz` and `jc`, both forms: taken exactly when Z = 1, Z = 0, C = 1; the flags and
everything else stay. -/
def Obligations.ConditionalJumpResults : Prop :=
  transferForms .jzR .jzI (fun t s => if s.zero = true then s.wentTo t else s.wentOn) ∧
  transferForms .jnzR .jnzI (fun t s => if s.zero = false then s.wentTo t else s.wentOn) ∧
  transferForms .jcR .jcI (fun t s => if s.carry = true then s.wentTo t else s.wentOn)

/-- R110: `call`, both forms: with room on the stack, the return address is pushed and the pc is the target; on a
full stack StackOverflow, nothing pushed. -/
def Obligations.CallResult : Prop :=
  transferForms .callR .callI fun t s =>
    if s.callStack.length < s.cfg.callDepth then
      State.wentTo { s with callStack := (s.ownPc + 1) :: s.callStack } t
    else s.faultedAt s.ownPc .stackOverflow

/-- R111: `ret`: the newest entry is popped into the pc when it is inside the program; otherwise StackUnderflow
or ReturnOutOfRange, the stack unchanged. -/
def Obligations.RetResult : Prop :=
  (∀ (s : State) (t : Nibble) (rest : List Nibble), s.callStack = t :: rest → t.toNat < s.progLen →
    exec .ret s = .next (State.wentTo { s with callStack := rest } t)) ∧
  (∀ (s : State) (t : Nibble) (rest : List Nibble), s.callStack = t :: rest → s.progLen ≤ t.toNat →
    exec .ret s = .next (s.faultedAt s.ownPc .returnOutOfRange)) ∧
  (∀ s : State, s.callStack = [] → exec .ret s = .next (s.faultedAt s.ownPc .stackUnderflow))

/-- R110, R111: under Step, `ret` after a `call` of either form comes back to the instruction after the call, with the
stack as it was. -/
def Obligations.RetComesBackFromCall : Prop :=
  ∀ (s : State) (call : Instr) (k : Nibble),
    (call = .callI k ∨ ∃ rb, call = .callR rb ∧ s.regValue rb = k) →
    s.executeL = none → s.callStack.length < s.cfg.callDepth → (s.pc + 1).toNat < s.progLen →
    ∃ t u : State, exec call s = .next t ∧ t.pc = k ∧ exec .ret t = .next u ∧ u.pc = s.pc + 1 ∧
      u.callStack = s.callStack ∧ u.arch = s.arch

/-! System instructions, faults and interrupts (43_system.md, 60_exceptions.md). -/

/-- R112, R113: `nop` only goes on; `hlt` stops the core with the pc at its own address: X's while X holds the executing
entry (70 R143), else the pc (00 R12). -/
def Obligations.NopAndHltResult : Prop :=
  (∀ s : State, exec .nop s = .next s.wentOn ∧ exec .hlt s = .next (s.stoppedAt s.ownPc)) ∧
  (∀ (s : State) (x : ExecuteEntry), s.executeL = some x → s.ownPc = x.pc) ∧
  (∀ s : State, s.executeL = none → s.ownPc = s.pc)

/-- R114: `irq n` sets `irqStatus[n]` and nothing else. -/
def Obligations.IrqSetsItsStatusBit : Prop :=
  ∀ (n : Nibble) (s : State), (Instr.irq n).wellFormed = true →
    ∃ t : State, exec (.irq n) s = .next t ∧
      (∀ j, j < 4 → t.intr.status.getLsbD j = (s.intr.status.getLsbD j || decide (j = n.toNat))) ∧
      t = State.wentOn { s with intr := { s.intr with status := t.intr.status } }

/-- R115, R131: in a handler `iret` restores pc and flags and clears `inHandler`; `enabled`, `irqMask`,
`irqStatus` and everything else stay. -/
def Obligations.IretRestores : Prop :=
  ∀ s : State, s.intr.inHandler = true →
    exec .iret s =
      .next (State.wentTo
        { s with
          carry := s.intr.savedCarry, zero := s.intr.savedZero
          intr := { s.intr with inHandler := false } } s.intr.savedPc)

/-- R115: outside a handler `iret` raises IretOutsideHandler and changes nothing else. -/
def Obligations.IretOutsideHandlerFaults : Prop :=
  ∀ s : State, s.intr.inHandler = false → exec .iret s = .next (s.faultedAt s.ownPc .iretOutsideHandler)

/-- R118 to R120: of the instructions only call, ret and iret fault, each with its own codes, and a faulting
instruction changes nothing but the latch, `running`, the pc and the pipeline's latches. -/
def Obligations.OnlyCallRetIretFault : Prop :=
  ∀ (i : Instr) (s t : State), s.fault = .none → exec i s = .next t → t.fault ≠ .none →
    ((i.kind = .call ∧ t.fault = .stackOverflow) ∨
      (i.kind = .ret ∧ (t.fault = .stackUnderflow ∨ t.fault = .returnOutOfRange)) ∨
      (i.kind = .iret ∧ t.fault = .iretOutsideHandler)) ∧
    t = { s.faultedAt s.ownPc t.fault with draws := t.draws }

/-- 10_state.md R27: the flags are written by the ALU instructions, each with what its own operation gives for its own
operands, restored by iret, copied by interrupt entry, and left alone by every other instruction and by END. -/
def Obligations.FlagsChangeOnlyByAluAndIret : Prop :=
  (∀ (i : Instr) (s t : State), exec i s = .next t →
    i.kind ∉ [.add, .sub, .mul, .and, .or, .xor, .cmp, .iret] → t.carry = s.carry ∧ t.zero = s.zero) ∧
  (∀ (op : AluOp) (ra rb : Reg) (s : State), ∃ t : State, exec (aluRegForm op ra rb) s = .next t ∧
    t.carry = (alu op (s.regValue ra) (s.pairSecond ra rb)).carry ∧
    t.zero = (alu op (s.regValue ra) (s.pairSecond ra rb)).zero) ∧
  (∀ (op : AluOp) (ra : Reg) (k : Nibble) (s : State), ∃ t : State, exec (aluImmForm op ra k) s = .next t ∧
    t.carry = (alu op (s.regValue ra) k).carry ∧ t.zero = (alu op (s.regValue ra) k).zero) ∧
  (∀ (i : Instr), i.kind ∈ [.add, .sub, .mul, .and, .or, .xor, .cmp] ↔
    (∃ op ra rb, i = aluRegForm op ra rb) ∨ (∃ op ra k, i = aluImmForm op ra k)) ∧
  (∀ s : State, s.intr.inHandler = true → ∃ t : State, exec .iret s = .next t ∧
    t.carry = s.intr.savedCarry ∧ t.zero = s.intr.savedZero) ∧
  (∀ s : State, s.intr.inHandler = false → ∃ t : State, exec .iret s = .next t ∧
    t.carry = s.carry ∧ t.zero = s.zero) ∧
  (∀ s : State, s.takeIrq.carry = s.carry ∧ s.takeIrq.zero = s.zero ∧
    s.takeIrq.intr.savedCarry = s.carry ∧ s.takeIrq.intr.savedZero = s.zero) ∧
  (∀ s t : State, perform exec .endMark s = .next t → t.carry = s.carry ∧ t.zero = s.zero)

/-- 10 R31, 20 R39, R46, 60 R122: no instruction writes IMEM, PROG_LEN, ROM, `irqMask`, `enabled`, the settle
counter or anything outside the core but the terminal. -/
def Obligations.NoInstructionWritesWhatOnlyTheHostWrites : Prop :=
  ∀ (i : Instr) (s t : State), exec i s = .next t →
    t.imem = s.imem ∧ t.progLen = s.progLen ∧ t.rom = s.rom ∧ t.intr.mask = s.intr.mask ∧
    t.intr.enabled = s.intr.enabled ∧ t.settle = s.settle ∧ t.cfg = s.cfg ∧ t.labels = s.labels ∧
    t.files = s.files ∧ t.events = s.events ∧ t.reply = s.reply

/-- R123: an interrupt is pending exactly when it is "armed, enabled, not already in a handler". -/
def Obligations.IrqPendingExactly : Prop :=
  ∀ s : State, s.irqPending = true ↔
    s.intr.enabled = true ∧ s.intr.inHandler = false ∧
      ∃ i, i < 4 ∧ s.intr.status.getLsbD i = true ∧ s.intr.mask.getLsbD i = true

/-- R125 to R127: the lowest armed line is taken: OldestPC and the flags are saved, the pc is `i * 4`, the line's
request is cleared and no other, the latches are emptied, and nothing else changes. OldestPC is the address in X, else in
D, else in F, else the pc (R126). -/
def Obligations.InterruptEntryEffect : Prop :=
  (∀ s : State, s.irqPending = true →
    ∃ i, i < 4 ∧ s.intr.status.getLsbD i = true ∧ s.intr.mask.getLsbD i = true ∧
      (∀ j, j < i → (s.intr.status.getLsbD j && s.intr.mask.getLsbD j) = false) ∧
      (∀ j, j < 4 → s.takeIrq.intr.status.getLsbD j = (s.intr.status.getLsbD j && !decide (j = i))) ∧
      s.takeIrq = State.wentTo
        { s with
          intr :=
            { s.intr with
              status := s.takeIrq.intr.status, inHandler := true, savedPc := s.oldestPc
              savedCarry := s.carry, savedZero := s.zero } } (BitVec.ofNat 4 (i * 4))) ∧
  (∀ (s : State) (x : ExecuteEntry), s.executeL = some x → s.oldestPc = x.pc) ∧
  (∀ (s : State) (d : DecodeEntry), s.executeL = none → s.decodeL = some d → s.oldestPc = d.pc) ∧
  (∀ (s : State) (f : FetchEntry), s.executeL = none → s.decodeL = none → s.fetchL = some f → s.oldestPc = f.pc) ∧
  (∀ s : State, s.executeL = none → s.decodeL = none → s.fetchL = none → s.oldestPc = s.pc)

/-- R124: a pending interrupt is taken at the start of a Step and of a Tick, and no instruction executes then;
direct execution does not test for it. -/
def Obligations.PendingInterruptIsTakenFirst : Prop :=
  (∀ (s : State) (rest : List Event), s.events = .step :: rest → s.mayStep → s.irqPending = true →
    step s = .next (State.settleTick { s with events := rest, reply := .ok }).takeIrq) ∧
  (∀ (s : State) (rest : List Event), s.events = .tick :: rest → s.mayTick → s.irqPending = true →
    step s = .next (State.settleTick { s with events := rest, reply := .ok }).takeIrq) ∧
  (∀ s : State, s.events = [] → s.mayTick → s.irqPending = true → step s = .next s.settleTick.takeIrq) ∧
  (∀ (s : State) (i : Instr) (rest : List Event), s.events = .direct i :: rest → s.mayStep →
    i.wellFormed = true → step s = exec i (State.settleTick { s with events := rest, reply := .ok }))

/-- R128, 43 R115: `iret` right after an interrupt entry resumes at the first instruction that had not executed,
with the registers, memory, call stack and flags as they were; the line's request is gone. -/
def Obligations.InterruptRoundTrip : Prop :=
  ∀ s : State, s.irqPending = true →
    ∃ u : State, exec .iret s.takeIrq = .next u ∧ u.pc = s.oldestPc ∧ u.oldestPc = s.oldestPc ∧
      u.arch =
        { s.arch with
          intr :=
            { s.intr with
              status := s.takeIrq.intr.status, savedPc := s.oldestPc
              savedCarry := s.carry, savedZero := s.zero } } ∧
      u.irqPending = (s.intr.status &&& s.intr.mask &&& s.takeIrq.intr.status != 0)

/-! Execution (70_reset_and_hazards.md). -/

/-- R141: a `step` of the stopped core, with no interrupt pending, is the meaning of the instruction that the
word at the pc decodes to, after the settle tick. The event and its reply are the model's (log 2, log 11). -/
def Obligations.StepRunsTheDecodedInstruction : Prop :=
  ∀ (s : State) (rest : List Event) (i : Instr), s.events = .step :: rest → s.running = false →
    s.fault = .none → s.fetchL = none → s.decodeL = none → s.executeL = none → s.irqPending = false →
    s.pc.toNat < s.progLen → decode (s.imemWord s.pc.toNat) = .insn i →
    step s = exec i (State.settleTick { s with events := rest, reply := .ok })

/-- 43 R116, R117: a Step at or past PROG_LEN stops the core with no fault; a Step on an illegal word raises
UnknownOpcode. Nothing else changes but for the settle tick. -/
def Obligations.EndHaltsAndIllegalWordFaults : Prop :=
  (∀ (s : State) (rest : List Event), s.events = .step :: rest → s.mayStep → s.irqPending = false →
    s.progLen ≤ s.pc.toNat →
    step s = .next ((State.settleTick { s with events := rest, reply := .ok }).stoppedAt s.pc)) ∧
  (∀ (s : State) (rest : List Event) (w : Word), s.events = .step :: rest → s.mayStep →
    s.irqPending = false → s.pc.toNat < s.progLen → decode (s.imemWord s.pc.toNat) = .illegal w →
    step s =
      .next ((State.settleTick { s with events := rest, reply := .ok }).faultedAt s.pc .unknownOpcode))

/-- R143, steps 2 to 4, for a Tick of the run loop or of the host with an entry in X and no interrupt pending. END stops
the core at its address (43 R116) and an illegal word faults there (R117). An instruction that halts, faults or is a
taken transfer ends the tick; otherwise D is held when it reads the register the instruction has written (step 3),
and the stages advance when it does not (step 4). -/
def Obligations.TickExecutesTheEntryInX : Prop :=
  ∀ (s b : State) (x : ExecuteEntry), s.ticksFrom b → b.irqPending = false → b.executeL = some x →
    (x.insn = .endMark → step s = .next (b.settleTick.stoppedAt x.pc)) ∧
    (∀ w, x.insn = .illegal w → step s = .next (b.settleTick.faultedAt x.pc .unknownOpcode)) ∧
    (∀ (i : Instr) (t : State), x.insn = .insn i → exec i b.settleTick = .next t →
      ((t.running = false ∨ takesTransfer i b = true) →
        step s = .next t ∧ t.fetchL = none ∧ t.decodeL = none ∧ t.executeL = none) ∧
      (t.running = true → takesTransfer i b = false →
        t.executeL = none ∧ t.decodeL = b.decodeL ∧ t.fetchL = b.fetchL ∧ t.pc = b.pc ∧
        ((∃ d r, b.decodeL = some d ∧ destination i = some r ∧ r ∈ entrySources d.insn) → step s = .next t) ∧
        ((∀ d r, b.decodeL = some d → destination i = some r → r ∉ entrySources d.insn) →
          ∃ u : State, step s = .next u ∧ t.advancesTo b.settleTick.regs u)))

/-- R144: an instruction in D that reads the register the instruction in X writes is held for one tick, D, F and
pc keeping their values and X receiving a bubble; the next tick it moves to X with the value written. -/
def Obligations.HazardHoldsDecodeForOneTick : Prop :=
  ∀ (s : State) (x : ExecuteEntry) (d : DecodeEntry) (i : Instr) (r : Reg),
    s.events = [] → s.mayTick → s.irqPending = false → s.executeL = some x → x.insn = .insn i →
    s.decodeL = some d → destination i = some r → r ∈ entrySources d.insn →
    ∃ t u : State, step s = .next t ∧ t.executeL = none ∧ t.decodeL = s.decodeL ∧ t.fetchL = s.fetchL ∧
      t.pc = s.pc ∧ (t.regs.get r).floating = false ∧
      step t = .next u ∧ ∃ y, u.executeL = some y ∧ y.pc = d.pc ∧ y.insn = d.insn ∧
        lookupOperand y.ops r = some (t.regs.get r).val

/-- R146, with step 4 of R143: a tick, of the run loop or of the host, that executes nothing (X empty, no interrupt)
advances the stages and changes nothing a program sees but the settling of the registers. -/
def Obligations.FillingTickChangesNothingAProgramSees : Prop :=
  ∀ s b : State, s.ticksFrom b → b.irqPending = false → b.executeL = none →
    ∃ t : State, step s = .next t ∧ b.settleTick.advancesTo b.settleTick.regs t ∧ t.arch = b.settleTick.arch

/-- R147, R149: from empty latches, with no interrupt pending and no register floating, four ticks do what one
Step does: "the first instruction executes in the 4th tick". The Step is also the host's `step` of the same core, stopped
(R141, R151). -/
def Obligations.FourTicksDoWhatOneStepDoes : Prop :=
  ∀ s : State, s.events = [] → s.running = true → s.fault = .none → s.fetchL = none → s.decodeL = none →
    s.executeL = none → s.settle = 0 → s.irqPending = false →
    ∃ a b c t u v : State, step s = .next a ∧ step a = .next b ∧ step b = .next c ∧ step c = .next t ∧
      stepOnce exec s = .next u ∧ t.arch = u.arch ∧ t.running = u.running ∧ t.oldestPc = u.pc ∧
      step { s with running := false, events := [.step] } = .next v ∧ t.arch = v.arch ∧ t.oldestPc = v.pc

/-- Every step has a next state: no instruction and no event ends the run (log 19). -/
def Obligations.EveryStepHasANextState : Prop :=
  (∀ (i : Instr) (s : State), ∃ t : State, exec i s = .next t) ∧ (∀ s : State, ∃ t : State, step s = .next t)

/-- R145 and the bounds and canonical forms of the state: every step keeps the invariant. -/
def Obligations.EveryStepKeepsTheInvariant : Prop :=
  ∀ s t : State, s.Inv → step s = .next t → t.Inv

/-- The state right after reset meets the invariant, and its parameters meet the constraints of 00 R8. -/
def Obligations.ResetMeetsTheInvariant : Prop :=
  State.reset.Inv ∧ State.reset.cfg.valid = true

/-! The host interface (70_reset_and_hazards.md section 5). -/

/-- R38, R139: what the reset operation leaves. The seeds are free values (log 3). -/
def Obligations.ResetOperation : Prop :=
  ∀ (s : State) (rest : List Event), s.events = .reset :: rest →
    ∃ t : State, step s = .next t ∧ t.pc = 0 ∧ t.carry = false ∧ t.zero = false ∧ t.callStack = [] ∧
      t.intr.mask = 0 ∧ t.intr.status = 0 ∧ t.intr.enabled = false ∧ t.intr.inHandler = false ∧
      t.intr.savedPc = 0 ∧ t.intr.savedCarry = false ∧ t.intr.savedZero = false ∧ t.running = false ∧
      t.fault = .none ∧ t.faultPc = 0 ∧ t.fetchL = none ∧ t.decodeL = none ∧ t.executeL = none ∧
      t.settle = s.cfg.settleTicks ∧ (∀ r, (t.regs.get r).floating = !decide (s.cfg.settleTicks = 0)) ∧
      t.imem = s.imem ∧ t.progLen = s.progLen ∧ t.rom = s.rom ∧ t.ram = s.ram ∧ t.cfg = s.cfg ∧
      t.keys = s.keys ∧ t.display = s.display

/-- R152, R153: a program load and a ROM load of the stopped core; with the core running, more than 16 words, or a
count that does not fit, a host-level error and nothing happens to the core (R151). That a program load needs as many
words as its count, and a ROM load ROM_SIZE cells, is the model's reading (log 13). A load from text (30 R84, 60 R121) is a
program load of the assembler's words that also hands over its labels; the assembler's error is only answered. -/
def Obligations.LoadOperations : Prop :=
  (∀ (s : State) (words : List Word) (rest : List Event),
    s.events = .loadProgram words words.length :: rest → s.running = false → words.length ≤ 16 →
    ∃ t : State, step s = .next t ∧
      (∀ i (h : i < words.length), t.imemWord i = words[i]) ∧
      (∀ i, words.length ≤ i → t.imemWord i = s.imemWord i) ∧
      t = { s with
        events := rest, reply := .ok, imem := t.imem, progLen := words.length, pc := 0
        fetchL := none, decodeL := none, executeL := none }) ∧
  (∀ (s : State) (words : List Word) (n : Nat) (rest : List Event),
    s.events = .loadProgram words n :: rest → (s.running = true ∨ 16 < n ∨ words.length ≠ n) →
    step s = .next { s with events := rest, reply := .preconditionFailed }) ∧
  (∀ (s : State) (cells : List Nibble) (rest : List Event), s.events = .loadRom cells :: rest →
    s.running = false → cells.length = s.cfg.romSize →
    ∃ t : State, step s = .next t ∧ (∀ i (h : i < cells.length), t.romCell i = cells[i]) ∧
      t = { s with events := rest, reply := .ok, rom := t.rom }) ∧
  (∀ (s : State) (cells : List Nibble) (rest : List Event), s.events = .loadRom cells :: rest →
    (s.running = true ∨ cells.length ≠ s.cfg.romSize) →
    step s = .next { s with events := rest, reply := .preconditionFailed }) ∧
  (∀ (s : State) (text : Text) (p : Program) (rest : List Event), s.events = .loadText text :: rest →
    s.running = false → assemble text = .ok p →
    ∃ t : State, step s = .next t ∧
      (∀ i (h : i < p.words.length), t.imemWord i = p.words[i]) ∧
      (∀ i, p.words.length ≤ i → t.imemWord i = s.imemWord i) ∧
      t = { s with
        events := rest, reply := .ok, imem := t.imem, progLen := p.words.length, pc := 0, labels := p.labels
        fetchL := none, decodeL := none, executeL := none }) ∧
  (∀ (s : State) (text : Text) (rest : List Event), s.events = .loadText text :: rest →
    (∀ e, assemble text = .error e → step s = .next { s with events := rest, reply := .asmError e }) ∧
    (∀ p, assemble text = .ok p → s.running = true →
      step s = .next { s with events := rest, reply := .preconditionFailed }))

/-- R154, R155, R157, R158: run, stop, external requests, mask and enable; a key arrival (20 R63) and the commands
without effect (R151, last row). That `run` of a core that runs already keeps
the latches is the model's choice (log 12): R154 speaks of empty latches. -/
def Obligations.RunStopAndInterruptOperations : Prop :=
  (∀ (s : State) (rest : List Event), s.events = .run :: rest →
    step s = .next { s with events := rest, reply := .ok, fault := .none, faultPc := 0, running := true }) ∧
  (∀ (s : State) (rest : List Event), s.events = .stop :: rest →
    step s = .next (State.stoppedAt { s with events := rest, reply := .ok } s.oldestPc)) ∧
  (∀ (s : State) (i : BitVec 2) (rest : List Event), s.events = .raiseIrq i :: rest →
    ∃ t : State, step s = .next t ∧
      (∀ j, j < 4 → t.intr.status.getLsbD j = (s.intr.status.getLsbD j || decide (j = i.toNat))) ∧
      t = { s with events := rest, reply := .ok, intr := { s.intr with status := t.intr.status } }) ∧
  (∀ (s : State) (m : BitVec 4) (rest : List Event), s.events = .setIrqMask m :: rest →
    step s = .next { s with events := rest, reply := .ok, intr := { s.intr with mask := m } }) ∧
  (∀ (s : State) (b : Bool) (rest : List Event), s.events = .setIrqEnabled b :: rest →
    step s = .next { s with events := rest, reply := .ok, intr := { s.intr with enabled := b } }) ∧
  (∀ (s : State) (k : Nibble) (rest : List Event), s.events = .key k :: rest →
    step s = .next { s with events := rest, keys := s.keys ++ [k] }) ∧
  (∀ (s : State) (c : OtherCommand) (rest : List Event), s.events = .other c :: rest →
    step s = .next { s with events := rest, reply := .ok })

/-- R159, R160 (S5 of 95_test_vectors.md): a save writes the record and leaves the core alone, and one that cannot be
written is an IOError; a load of a saved record on any stopped core with the same parameters reproduces registers, pc,
memory, labels, call stack, flags and interrupt state, and leaves what the record does not hold (log 14). What `peek`
shows is in InspectionChangesNothing. -/
def Obligations.LoadOfASaveReproducesTheState : Prop :=
  (∀ s : State,
    s.persist.registers = [Reg.r0, Reg.r1, Reg.r2, Reg.r3].map (fun r => (s.regs.get r).val.toNat) ∧
    s.persist.pc = s.pc.toNat ∧ s.persist.memory.length = 16 ∧
    (∀ a : Nibble, s.persist.memory[a.toNat]? = some (s.peek a).toNat) ∧
    s.persist.labels = s.labels.map (fun e => (e.1, e.2.toNat)) ∧
    s.persist.callStack = (s.callStack.map BitVec.toNat).reverse ∧
    s.persist.flagZero = s.zero ∧ s.persist.flagCarry = s.carry ∧
    s.persist.irqMask = s.intr.mask.toNat ∧ s.persist.irqStatus = s.intr.status.toNat ∧
    s.persist.enabled = s.intr.enabled ∧ s.persist.inHandler = s.intr.inHandler ∧
    s.persist.savedPc = s.intr.savedPc.toNat ∧ s.persist.savedCarry = s.intr.savedCarry ∧
    s.persist.savedZero = s.intr.savedZero) ∧
  (∀ (s : State) (path : Text) (rest : List Event), s.events = .save path false :: rest →
    s.running = false →
    ∃ t : State, step s = .next t ∧ findDoc t.files path = some s.persist ∧
      (∀ other, other ≠ path → findDoc t.files other = findDoc s.files other) ∧
      t = { s with events := rest, reply := .ok, files := t.files }) ∧
  (∀ (s : State) (path : Text) (rest : List Event), s.events = .save path true :: rest →
    s.running = false → step s = .next { s with events := rest, reply := .ioError }) ∧
  (∀ (s u : State) (path : Text) (rest : List Event), u.events = .loadState path :: rest →
    u.running = false → findDoc u.files path = some s.persist → u.cfg = s.cfg →
    s.callStack.length ≤ s.cfg.callDepth →
    ∃ t : State, step u = .next t ∧
      (∀ r, t.regs.get r = ⟨(s.regs.get r).val, false⟩) ∧ (∀ a, t.peek a = s.peek a) ∧
      t = { u with
        events := rest, reply := .ok, regs := t.regs, pc := s.pc, rom := t.rom, ram := t.ram, labels := s.labels
        callStack := s.callStack, carry := s.carry, zero := s.zero, intr := s.intr, fault := .none, faultPc := 0
        fetchL := none, decodeL := none, executeL := none })

/-- R160, 93 I15: a document that is malformed is an IOError and changes nothing: its call stack is longer than
CALL_DEPTH, or a value is outside its width. Log 14 says what is the model's reading: that a missing document is an
IOError too, that a document without four registers or sixteen memory entries is malformed, and that the entries of
device and unmapped addresses count as values. -/
def Obligations.MalformedDocumentChangesNothing : Prop :=
  ∀ (s : State) (path : Text) (rest : List Event), s.events = .loadState path :: rest → s.running = false →
    (findDoc s.files path = none ∨
      ∃ d, findDoc s.files path = some d ∧
        (s.cfg.callDepth < d.callStack.length ∨ d.registers.length ≠ 4 ∨ d.memory.length ≠ 16 ∨
          ∃ v, 16 ≤ v ∧
            (v ∈ d.registers ∨ v = d.pc ∨ v ∈ d.memory ∨ v ∈ d.labels.map Prod.snd ∨ v ∈ d.callStack ∨
              v = d.irqMask ∨ v = d.irqStatus ∨ v = d.savedPc))) →
    step s = .next { s with events := rest, reply := .ioError }

/-- R161, with R159's reading of a bus address: inspection shows values without changing anything else: no draw, no key
consumed. What `peek` shows is the ROM or RAM cell at its bus address, 0000 at device and unmapped addresses. Which
addresses `memrange` shows is the model's choice (log 22). -/
def Obligations.InspectionChangesNothing : Prop :=
  (∀ (s : State) (a : Nibble),
    s.peek a =
      if a = s.cfg.keyStatus ∨ a = s.cfg.keyData ∨ a = s.cfg.charOut then 0
      else if a.toNat < s.cfg.romSize then s.romCell a.toNat
      else if a.toNat < s.cfg.romSize + s.cfg.ramSize then s.ramCell (a.toNat - s.cfg.romSize)
      else 0) ∧
  (∀ (s : State) (q : Query) (rest : List Event), s.events = .inspect q :: rest →
    ∃ r : Reply, step s = .next { s with events := rest, reply := r } ∧
      (q = .mem → ∃ vs : List Nibble, r = .cells vs ∧ vs.length = 16 ∧
        ∀ a : Nibble, vs[a.toNat]? = some (s.peek a)) ∧
      (q = .regs → ∃ cs : List (Nibble × Bool), r = .registers cs ∧
        cs = [Reg.r0, Reg.r1, Reg.r2, Reg.r3].map fun x => ((s.regs.get x).val, (s.regs.get x).floating)) ∧
      (∀ lo hi, q = .memRange lo hi →
        r = .cells (((List.range 16).filter fun n => decide (lo.toNat ≤ n) && decide (n ≤ hi.toNat)).map fun n =>
          s.peek (BitVec.ofNat 4 n))))

/-- 10 R33, 60 R119, R138, 93 I13, I14: a stopped core with nothing pending stays as it is. R151, 93 I16: where the
precondition of `tick`, `step`, `exec(I)`, `save` or `loadState` fails, because the core runs, is stopped or has a fault
latched, the operation only answers the error. -/
def Obligations.StoppedCoreStaysStopped : Prop :=
  (∀ s : State, s.events = [] → s.running = false → step s = .next s) ∧
  (∀ (s : State) (e : Event) (rest : List Event), s.events = e :: rest →
    ((s.running = true ∧
        (e = .step ∨ (∃ i, e = .direct i) ∨ (∃ path fails, e = .save path fails) ∨ ∃ path, e = .loadState path)) ∨
      (s.fault ≠ .none ∧ (e = .step ∨ e = .tick ∨ ∃ i, e = .direct i)) ∨
      (s.running = false ∧ e = .tick)) →
    step s = .next { s with events := rest, reply := .preconditionFailed })
end

