-- ==== Sys2Proof/Laws/Alu.lean ====
section
/-! SUPPORT. The bit-by-bit adder and the ALU's operations as arithmetic of integers: one lemma per function,
for the proofs to cite. -/

namespace Sys2Proof.Machine

/-- The chain of full adders adds, modulo 16. -/
theorem adder_sum (a b : Nibble) (c : Bool) : (adder a b c).1 = a + b + BitVec.ofNat 4 c.toNat := by
  revert a b c
  decide

/-- Its carry-out says that the sum of the integers is 16 or more. -/
theorem adder_carry (a b : Nibble) (c : Bool) :
    (adder a b c).2 = decide (16 ≤ a.toNat + b.toNat + c.toNat) := by
  revert a b c
  decide

/-- The increment adds one, modulo 16. -/
theorem pcIncrement_eq (p : Nibble) : pcIncrement p = p + 1 := by
  revert p
  decide

theorem aluAdd_eq (a b : Nibble) :
    aluAdd a b = ⟨a + b, decide (16 ≤ a.toNat + b.toNat), decide ((a.toNat + b.toNat) % 16 = 0)⟩ := by
  revert a b
  decide

theorem aluSub_eq (a b : Nibble) : aluSub a b = ⟨a - b, decide (a.toNat < b.toNat), decide (a = b)⟩ := by
  revert a b
  decide

theorem aluMul_eq (a b : Nibble) :
    aluMul a b = ⟨a * b, decide (15 < a.toNat * b.toNat), decide (a.toNat * b.toNat = 0)⟩ := by
  revert a b
  decide

/-- A compare sets the flags of a subtract. -/
theorem aluCmp_eq (a b : Nibble) : aluCmp a b = aluSub a b := rfl

end Sys2Proof.Machine
end

