-- ==== Sys2Proof/Laws/Codec.lean ====
section
/-! SUPPORT. The laws of the codec's parts: fields, the bits of a field, the rows of the table, and the size of an
assembled program. -/

namespace Sys2Proof

@[simp] theorem regOfField_fieldOfReg (r : Reg) : regOfField (fieldOfReg r) = r := by
  cases r <;> rfl

@[simp] theorem fieldOfReg_regOfField (b : BitVec 2) : fieldOfReg (regOfField b) = b := by
  revert b
  decide

/-- The RA field of a word, put back, is the word's bits 7:6. -/
theorem raBits_raField (w : Word) : raBits (raField w) = w &&& 0x00C0 := by
  simp only [raBits, raField, fieldOfReg_regOfField]
  ext i hi
  interval_cases i <;> simp

/-- The RB field of a word, put back, is the word's bits 5:4. -/
theorem rbBits_rbField (w : Word) : rbBits (rbField w) = w &&& 0x0030 := by
  simp only [rbBits, rbField, fieldOfReg_regOfField]
  ext i hi
  interval_cases i <;> simp

/-- The IMM field of a word, put back, is the word's bits 3:0. -/
theorem immBits_immField (w : Word) : immBits (immField w) = w &&& 0x000F := by
  simp only [immBits, immField]
  ext i hi
  interval_cases i <;> simp

/-- A word is its masked bits together with the others. -/
theorem word_split (w m : Word) : w = w &&& m ||| w &&& ~~~m := by
  ext i hi
  simp only [BitVec.getElem_or, BitVec.getElem_and, BitVec.getElem_not]
  cases w[i] <;> cases m[i] <;> rfl

/-- A word covered by a row is the row's match value with the bits the row's mask leaves free. -/
theorem word_of_covers (r : EncodingRow) (w : Word) (h : r.covers w = true) :
    w = r.matchBits ||| w &&& ~~~r.maskBits := by
  have hm : w &&& r.maskBits = r.matchBits := by simpa [EncodingRow.covers] using h
  rw [← hm]
  exact word_split w r.maskBits

/-- A decoded word is covered by a row of the table, which builds the instruction from the word's fields. -/
theorem decode_insn_row {w : Word} {i : Instr} (h : decode w = .insn i) :
    ∃ r ∈ encodingRows, r.covers w = true ∧ i = r.build (raField w) (rbField w) (immField w) := by
  unfold decode at h
  split at h
  · rename_i r hr
    exact ⟨r, List.mem_of_find?_eq_some hr, List.find?_some (p := fun q => EncodingRow.covers q w) hr,
      (Decoded.insn.inj h).symm⟩
  · cases h

/-- A word is illegal exactly when no row covers it. -/
theorem decode_illegal_iff (w : Word) : decode w = .illegal w ↔ ∀ r ∈ encodingRows, r.covers w = false := by
  unfold decode
  split
  · rename_i r hr
    constructor
    · intro h
      cases h
    · intro h
      have hc := h r (List.mem_of_find?_eq_some hr)
      rw [List.find?_some (p := fun q => EncodingRow.covers q w) hr] at hc
      cases hc
  · rename_i hr
    simpa [List.find?_eq_none] using hr

/-- Decoding never gives END, and an illegal word keeps itself (30_encoding.md R76). -/
theorem decode_cases (w : Word) : (∃ i, decode w = .insn i) ∨ decode w = .illegal w := by
  unfold decode
  split
  · exact .inl ⟨_, rfl⟩
  · exact .inr rfl

/-! The assembler. -/

namespace Machine

/-- The second pass keeps the number of instructions (30_encoding.md R82). -/
theorem resolveAll_length (table : List (Text × Nibble)) (ps : List ParsedInstr) (is : List Instr)
    (h : resolveAll table ps = .ok is) : is.length = ps.length := by
  induction ps generalizing is with
  | nil => cases h; rfl
  | cons p ps ih =>
    cases p with
    | complete i =>
      simp only [resolveAll] at h
      split at h
      · cases h; simp [ih _ ‹_›]
      · cases h
    | toLabel k name =>
      simp only [resolveAll] at h
      split at h
      · cases h
      · split at h
        · cases h; simp [ih _ ‹_›]
        · cases h
        · cases h

/-- An assembled program has sixteen words at most (30 R84). -/
theorem assemble_length (t : Text) (p : Program) (h : assemble t = .ok p) : p.words.length ≤ 16 := by
  simp only [assemble] at h
  split at h
  · cases h
  · split at h
    · cases h
    · split at h
      · cases h
      · cases h
        simp only [List.length_map, resolveAll_length _ _ _ ‹_›]
        omega

end Machine

end Sys2Proof
end

