-- ==== Sys2Proof/Laws/Memory.lean ====
section
/-! SUPPORT. The laws of a memory (log 5): a read after a write, the canonical form, which every write keeps, and
that equal memories are equal data. -/

namespace Sys2Proof.Machine

variable {w : Nat}

theorem Mem.lookup_write_same (m : Mem w) (a : Nat) (v : BitVec w) : (m.write a v).lookup a = some v := by
  induction m with
  | nil => simp [Mem.write, Mem.lookup]
  | cons e m ih =>
    obtain ⟨b, u⟩ := e
    unfold Mem.write
    split
    · simp [Mem.lookup]
    · split
      · simp [Mem.lookup]
      · simp_all [Mem.lookup]

theorem Mem.lookup_write_other (m : Mem w) (a b : Nat) (v : BitVec w) (h : b ≠ a) :
    (m.write a v).lookup b = m.lookup b := by
  induction m with
  | nil => simp [Mem.write, Mem.lookup, h]
  | cons e m ih =>
    obtain ⟨c, u⟩ := e
    unfold Mem.write
    split
    · simp [Mem.lookup, h]
    · split
      · subst_vars
        simp [Mem.lookup, h]
      · simp [Mem.lookup, ih]

/-- A read after a write. -/
theorem Mem.lookup_write (m : Mem w) (a b : Nat) (v : BitVec w) :
    (m.write a v).lookup b = if b = a then some v else m.lookup b := by
  split
  · subst_vars
    exact Mem.lookup_write_same m _ v
  · exact Mem.lookup_write_other m a b v ‹_›

/-- A read after a run of writes. -/
theorem Mem.lookup_writeAll (vs : List (BitVec w)) (m : Mem w) (a b : Nat) :
    (m.writeAll a vs).lookup b = if a ≤ b ∧ b < a + vs.length then vs[b - a]? else m.lookup b := by
  induction vs generalizing m a with
  | nil =>
    rw [if_neg (by simp)]
    rfl
  | cons v vs ih =>
    rw [Mem.writeAll, ih, Mem.lookup_write, List.length_cons]
    by_cases hb : b = a
    · subst hb
      rw [if_neg (by omega), if_pos rfl, if_pos (by omega)]
      simp
    · by_cases h : a + 1 ≤ b ∧ b < a + 1 + vs.length
      · rw [if_pos h, if_pos (by omega), show b - a = (b - (a + 1)) + 1 by omega, List.getElem?_cons_succ]
      · rw [if_neg h, if_neg hb, if_neg (by omega)]

theorem Mem.risingFrom_mono {bound lo lo' : Nat} (m : Mem w) (h : lo' ≤ lo)
    (hm : m.risingFrom bound lo = true) : m.risingFrom bound lo' = true := by
  cases m with
  | nil => rfl
  | cons e m =>
    simp only [Mem.risingFrom, Bool.and_eq_true, decide_eq_true_eq] at hm ⊢
    exact ⟨⟨by omega, hm.1.2⟩, hm.2⟩

theorem Mem.risingFrom_write {bound lo : Nat} (m : Mem w) (a : Nat) (v : BitVec w) (hlo : lo ≤ a)
    (ha : a < bound) (hm : m.risingFrom bound lo = true) : (m.write a v).risingFrom bound lo = true := by
  induction m generalizing lo with
  | nil => simp [Mem.write, Mem.risingFrom, hlo, ha]
  | cons e m ih =>
    obtain ⟨b, u⟩ := e
    simp only [Mem.risingFrom, Bool.and_eq_true, decide_eq_true_eq] at hm
    unfold Mem.write
    split
    · simp only [Mem.risingFrom, Bool.and_eq_true, decide_eq_true_eq]
      exact ⟨⟨hlo, ha⟩, ⟨by omega, hm.1.2⟩, hm.2⟩
    · split
      · subst_vars
        simp only [Mem.risingFrom, Bool.and_eq_true, decide_eq_true_eq]
        exact hm
      · simp only [Mem.risingFrom, Bool.and_eq_true, decide_eq_true_eq]
        exact ⟨hm.1, ih (by omega) hm.2⟩

/-- A write inside the memory keeps the canonical form. -/
theorem Mem.wf_write {bound : Nat} (m : Mem w) (a : Nat) (v : BitVec w) (ha : a < bound)
    (hm : m.wf bound = true) : (m.write a v).wf bound = true :=
  Mem.risingFrom_write m a v (Nat.zero_le a) ha hm

/-- A run of writes inside the memory keeps the canonical form. -/
theorem Mem.wf_writeAll {bound : Nat} (vs : List (BitVec w)) (m : Mem w) (a : Nat)
    (ha : a + vs.length ≤ bound) (hm : m.wf bound = true) : (m.writeAll a vs).wf bound = true := by
  induction vs generalizing m a with
  | nil => exact hm
  | cons v vs ih =>
    rw [List.length_cons] at ha
    exact ih _ _ (by omega) (Mem.wf_write m a v (by omega) hm)

theorem Mem.lookup_below {bound lo a : Nat} (m : Mem w) (hm : m.risingFrom bound lo = true) (h : a < lo) :
    m.lookup a = none := by
  induction m generalizing lo with
  | nil => rfl
  | cons e m ih =>
    obtain ⟨b, u⟩ := e
    simp only [Mem.risingFrom, Bool.and_eq_true, decide_eq_true_eq] at hm
    rw [Mem.lookup, if_neg (by omega)]
    exact ih hm.2 (by omega)

/-- In the canonical form, memories that hold the same at every address are equal data. -/
theorem Mem.ext_lookup {bound lo : Nat} (m n : Mem w) (hm : m.risingFrom bound lo = true)
    (hn : n.risingFrom bound lo = true) (h : ∀ a, m.lookup a = n.lookup a) : m = n := by
  induction m generalizing n lo with
  | nil =>
    cases n with
    | nil => rfl
    | cons e n => simpa [Mem.lookup] using h e.1
  | cons e m ih =>
    obtain ⟨b, u⟩ := e
    cases n with
    | nil => simpa [Mem.lookup] using h b
    | cons f n =>
      obtain ⟨c, x⟩ := f
      simp only [Mem.risingFrom, Bool.and_eq_true, decide_eq_true_eq] at hm hn
      have hbc : b = c := by
        by_contra hne
        rcases Nat.lt_or_gt_of_ne hne with hlt | hlt
        · have hb := h b
          rw [Mem.lookup, if_pos rfl, Mem.lookup, if_neg hne, Mem.lookup_below n hn.2 (by omega)] at hb
          cases hb
        · have hc := h c
          rw [Mem.lookup, if_neg (by omega), Mem.lookup, if_pos rfl, Mem.lookup_below m hm.2 (by omega)] at hc
          cases hc
      subst hbc
      have hu := h b
      rw [Mem.lookup, if_pos rfl, Mem.lookup, if_pos rfl] at hu
      rw [Option.some.inj hu, ih n hm.2 hn.2]
      intro a
      by_cases hab : a = b
      · subst hab
        rw [Mem.lookup_below m hm.2 (by omega), Mem.lookup_below n hn.2 (by omega)]
      · have ha := h a
        rwa [Mem.lookup, if_neg hab, Mem.lookup, if_neg hab] at ha

/-- A decoded ROM index lies inside the ROM. -/
theorem busRegion_rom {p : Params} {a : Nibble} {i : Nat} (h : busRegion p a = .rom i) :
    i < p.romSize ∧ i = a.toNat := by
  unfold busRegion at h
  split at h; · cases h
  split at h; · cases h
  split at h; · cases h
  split at h
  · cases h
    exact ⟨‹_›, rfl⟩
  · split at h <;> cases h

/-- A decoded RAM index lies inside the RAM. -/
theorem busRegion_ram {p : Params} {a : Nibble} {i : Nat} (h : busRegion p a = .ram i) :
    i < p.ramSize ∧ a.toNat = i + p.romSize := by
  unfold busRegion at h
  split at h; · cases h
  split at h; · cases h
  split at h; · cases h
  split at h; · cases h
  split at h
  · cases h
    omega
  · cases h

/-- A store keeps RAM in its canonical form. -/
theorem State.ramAfterWrite_wf (s : State) (a v : Nibble) (h : s.ram.wf s.cfg.ramSize = true) :
    (s.ramAfterWrite a v).wf s.cfg.ramSize = true := by
  unfold State.ramAfterWrite
  split
  · exact Mem.wf_write _ _ _ (busRegion_ram ‹_›).1 h
  all_goals exact h

theorem restoreRom_wf (p : Params) (vs : List Nat) (a : Nat) (m : Mem 4) (h : m.wf p.romSize = true) :
    (restoreRom p a vs m).wf p.romSize = true := by
  induction vs generalizing a m with
  | nil => exact h
  | cons v vs ih =>
    apply ih
    split
    · exact Mem.wf_write _ _ _ (busRegion_rom ‹_›).1 h
    all_goals exact h

theorem restoreRam_wf (p : Params) (vs : List Nat) (a : Nat) (m : Mem 4) (h : m.wf p.ramSize = true) :
    (restoreRam p a vs m).wf p.ramSize = true := by
  induction vs generalizing a m with
  | nil => exact h
  | cons v vs ih =>
    apply ih
    split
    · exact Mem.wf_write _ _ _ (busRegion_ram ‹_›).1 h
    all_goals exact h

end Sys2Proof.Machine
end

