-- ==== Sys2Proof/Laws/State.lean ====
section
/-! SUPPORT. What each shared update of the state does to each field, so that no proof unfolds a record update.
Every lemma is true by `rfl`. -/

namespace Sys2Proof.Machine

section afterRead

variable (s : State) (r : Reg)

@[simp] theorem State.afterRead_regs : (s.afterRead r).regs = s.regs := rfl
@[simp] theorem State.afterRead_settle : (s.afterRead r).settle = s.settle := rfl
@[simp] theorem State.afterRead_pc : (s.afterRead r).pc = s.pc := rfl
@[simp] theorem State.afterRead_carry : (s.afterRead r).carry = s.carry := rfl
@[simp] theorem State.afterRead_zero : (s.afterRead r).zero = s.zero := rfl
@[simp] theorem State.afterRead_callStack : (s.afterRead r).callStack = s.callStack := rfl
@[simp] theorem State.afterRead_intr : (s.afterRead r).intr = s.intr := rfl
@[simp] theorem State.afterRead_running : (s.afterRead r).running = s.running := rfl
@[simp] theorem State.afterRead_fault : (s.afterRead r).fault = s.fault := rfl
@[simp] theorem State.afterRead_faultPc : (s.afterRead r).faultPc = s.faultPc := rfl
@[simp] theorem State.afterRead_fetchL : (s.afterRead r).fetchL = s.fetchL := rfl
@[simp] theorem State.afterRead_decodeL : (s.afterRead r).decodeL = s.decodeL := rfl
@[simp] theorem State.afterRead_executeL : (s.afterRead r).executeL = s.executeL := rfl
@[simp] theorem State.afterRead_aluA : (s.afterRead r).aluA = s.aluA := rfl
@[simp] theorem State.afterRead_aluB : (s.afterRead r).aluB = s.aluB := rfl
@[simp] theorem State.afterRead_aluOp : (s.afterRead r).aluOp = s.aluOp := rfl
@[simp] theorem State.afterRead_imem : (s.afterRead r).imem = s.imem := rfl
@[simp] theorem State.afterRead_progLen : (s.afterRead r).progLen = s.progLen := rfl
@[simp] theorem State.afterRead_rom : (s.afterRead r).rom = s.rom := rfl
@[simp] theorem State.afterRead_ram : (s.afterRead r).ram = s.ram := rfl
@[simp] theorem State.afterRead_keys : (s.afterRead r).keys = s.keys := rfl
@[simp] theorem State.afterRead_display : (s.afterRead r).display = s.display := rfl
@[simp] theorem State.afterRead_labels : (s.afterRead r).labels = s.labels := rfl
@[simp] theorem State.afterRead_files : (s.afterRead r).files = s.files := rfl
@[simp] theorem State.afterRead_events : (s.afterRead r).events = s.events := rfl
@[simp] theorem State.afterRead_reply : (s.afterRead r).reply = s.reply := rfl
@[simp] theorem State.afterRead_cfg : (s.afterRead r).cfg = s.cfg := rfl
@[simp] theorem State.afterRead_draws : (s.afterRead r).draws = s.regDraws r := rfl

end afterRead

section afterPair

variable (s : State) (ra rb : Reg)

@[simp] theorem State.afterPair_regs : (s.afterPair ra rb).regs = s.regs := rfl
@[simp] theorem State.afterPair_settle : (s.afterPair ra rb).settle = s.settle := rfl
@[simp] theorem State.afterPair_pc : (s.afterPair ra rb).pc = s.pc := rfl
@[simp] theorem State.afterPair_carry : (s.afterPair ra rb).carry = s.carry := rfl
@[simp] theorem State.afterPair_zero : (s.afterPair ra rb).zero = s.zero := rfl
@[simp] theorem State.afterPair_callStack : (s.afterPair ra rb).callStack = s.callStack := rfl
@[simp] theorem State.afterPair_intr : (s.afterPair ra rb).intr = s.intr := rfl
@[simp] theorem State.afterPair_running : (s.afterPair ra rb).running = s.running := rfl
@[simp] theorem State.afterPair_fault : (s.afterPair ra rb).fault = s.fault := rfl
@[simp] theorem State.afterPair_faultPc : (s.afterPair ra rb).faultPc = s.faultPc := rfl
@[simp] theorem State.afterPair_fetchL : (s.afterPair ra rb).fetchL = s.fetchL := rfl
@[simp] theorem State.afterPair_decodeL : (s.afterPair ra rb).decodeL = s.decodeL := rfl
@[simp] theorem State.afterPair_executeL : (s.afterPair ra rb).executeL = s.executeL := rfl
@[simp] theorem State.afterPair_aluA : (s.afterPair ra rb).aluA = s.aluA := rfl
@[simp] theorem State.afterPair_aluB : (s.afterPair ra rb).aluB = s.aluB := rfl
@[simp] theorem State.afterPair_aluOp : (s.afterPair ra rb).aluOp = s.aluOp := rfl
@[simp] theorem State.afterPair_imem : (s.afterPair ra rb).imem = s.imem := rfl
@[simp] theorem State.afterPair_progLen : (s.afterPair ra rb).progLen = s.progLen := rfl
@[simp] theorem State.afterPair_rom : (s.afterPair ra rb).rom = s.rom := rfl
@[simp] theorem State.afterPair_ram : (s.afterPair ra rb).ram = s.ram := rfl
@[simp] theorem State.afterPair_keys : (s.afterPair ra rb).keys = s.keys := rfl
@[simp] theorem State.afterPair_display : (s.afterPair ra rb).display = s.display := rfl
@[simp] theorem State.afterPair_labels : (s.afterPair ra rb).labels = s.labels := rfl
@[simp] theorem State.afterPair_files : (s.afterPair ra rb).files = s.files := rfl
@[simp] theorem State.afterPair_events : (s.afterPair ra rb).events = s.events := rfl
@[simp] theorem State.afterPair_reply : (s.afterPair ra rb).reply = s.reply := rfl
@[simp] theorem State.afterPair_cfg : (s.afterPair ra rb).cfg = s.cfg := rfl
@[simp] theorem State.afterPair_draws : (s.afterPair ra rb).draws = s.pairDraws ra rb := rfl

end afterPair

section writeReg

variable (s : State) (r : Reg) (v : Nibble)

@[simp] theorem State.writeReg_regs : (s.writeReg r v).regs = s.regs.set r ⟨v, false⟩ := rfl
@[simp] theorem State.writeReg_settle : (s.writeReg r v).settle = s.settle := rfl
@[simp] theorem State.writeReg_pc : (s.writeReg r v).pc = s.pc := rfl
@[simp] theorem State.writeReg_carry : (s.writeReg r v).carry = s.carry := rfl
@[simp] theorem State.writeReg_zero : (s.writeReg r v).zero = s.zero := rfl
@[simp] theorem State.writeReg_callStack : (s.writeReg r v).callStack = s.callStack := rfl
@[simp] theorem State.writeReg_intr : (s.writeReg r v).intr = s.intr := rfl
@[simp] theorem State.writeReg_running : (s.writeReg r v).running = s.running := rfl
@[simp] theorem State.writeReg_fault : (s.writeReg r v).fault = s.fault := rfl
@[simp] theorem State.writeReg_faultPc : (s.writeReg r v).faultPc = s.faultPc := rfl
@[simp] theorem State.writeReg_fetchL : (s.writeReg r v).fetchL = s.fetchL := rfl
@[simp] theorem State.writeReg_decodeL : (s.writeReg r v).decodeL = s.decodeL := rfl
@[simp] theorem State.writeReg_executeL : (s.writeReg r v).executeL = s.executeL := rfl
@[simp] theorem State.writeReg_aluA : (s.writeReg r v).aluA = s.aluA := rfl
@[simp] theorem State.writeReg_aluB : (s.writeReg r v).aluB = s.aluB := rfl
@[simp] theorem State.writeReg_aluOp : (s.writeReg r v).aluOp = s.aluOp := rfl
@[simp] theorem State.writeReg_imem : (s.writeReg r v).imem = s.imem := rfl
@[simp] theorem State.writeReg_progLen : (s.writeReg r v).progLen = s.progLen := rfl
@[simp] theorem State.writeReg_rom : (s.writeReg r v).rom = s.rom := rfl
@[simp] theorem State.writeReg_ram : (s.writeReg r v).ram = s.ram := rfl
@[simp] theorem State.writeReg_keys : (s.writeReg r v).keys = s.keys := rfl
@[simp] theorem State.writeReg_display : (s.writeReg r v).display = s.display := rfl
@[simp] theorem State.writeReg_labels : (s.writeReg r v).labels = s.labels := rfl
@[simp] theorem State.writeReg_files : (s.writeReg r v).files = s.files := rfl
@[simp] theorem State.writeReg_events : (s.writeReg r v).events = s.events := rfl
@[simp] theorem State.writeReg_reply : (s.writeReg r v).reply = s.reply := rfl
@[simp] theorem State.writeReg_cfg : (s.writeReg r v).cfg = s.cfg := rfl
@[simp] theorem State.writeReg_draws : (s.writeReg r v).draws = s.draws := rfl

end writeReg

section afterBusRead

variable (s : State) (a : Nibble)

@[simp] theorem State.afterBusRead_regs : (s.afterBusRead a).regs = s.regs := rfl
@[simp] theorem State.afterBusRead_settle : (s.afterBusRead a).settle = s.settle := rfl
@[simp] theorem State.afterBusRead_pc : (s.afterBusRead a).pc = s.pc := rfl
@[simp] theorem State.afterBusRead_carry : (s.afterBusRead a).carry = s.carry := rfl
@[simp] theorem State.afterBusRead_zero : (s.afterBusRead a).zero = s.zero := rfl
@[simp] theorem State.afterBusRead_callStack : (s.afterBusRead a).callStack = s.callStack := rfl
@[simp] theorem State.afterBusRead_intr : (s.afterBusRead a).intr = s.intr := rfl
@[simp] theorem State.afterBusRead_running : (s.afterBusRead a).running = s.running := rfl
@[simp] theorem State.afterBusRead_fault : (s.afterBusRead a).fault = s.fault := rfl
@[simp] theorem State.afterBusRead_faultPc : (s.afterBusRead a).faultPc = s.faultPc := rfl
@[simp] theorem State.afterBusRead_fetchL : (s.afterBusRead a).fetchL = s.fetchL := rfl
@[simp] theorem State.afterBusRead_decodeL : (s.afterBusRead a).decodeL = s.decodeL := rfl
@[simp] theorem State.afterBusRead_executeL : (s.afterBusRead a).executeL = s.executeL := rfl
@[simp] theorem State.afterBusRead_aluA : (s.afterBusRead a).aluA = s.aluA := rfl
@[simp] theorem State.afterBusRead_aluB : (s.afterBusRead a).aluB = s.aluB := rfl
@[simp] theorem State.afterBusRead_aluOp : (s.afterBusRead a).aluOp = s.aluOp := rfl
@[simp] theorem State.afterBusRead_imem : (s.afterBusRead a).imem = s.imem := rfl
@[simp] theorem State.afterBusRead_progLen : (s.afterBusRead a).progLen = s.progLen := rfl
@[simp] theorem State.afterBusRead_rom : (s.afterBusRead a).rom = s.rom := rfl
@[simp] theorem State.afterBusRead_ram : (s.afterBusRead a).ram = s.ram := rfl
@[simp] theorem State.afterBusRead_keys : (s.afterBusRead a).keys = s.keysAfterRead a := rfl
@[simp] theorem State.afterBusRead_display : (s.afterBusRead a).display = s.display := rfl
@[simp] theorem State.afterBusRead_labels : (s.afterBusRead a).labels = s.labels := rfl
@[simp] theorem State.afterBusRead_files : (s.afterBusRead a).files = s.files := rfl
@[simp] theorem State.afterBusRead_events : (s.afterBusRead a).events = s.events := rfl
@[simp] theorem State.afterBusRead_reply : (s.afterBusRead a).reply = s.reply := rfl
@[simp] theorem State.afterBusRead_cfg : (s.afterBusRead a).cfg = s.cfg := rfl
@[simp] theorem State.afterBusRead_draws : (s.afterBusRead a).draws = s.draws := rfl

end afterBusRead

section busWrite

variable (s : State) (a v : Nibble)

@[simp] theorem State.busWrite_regs : (s.busWrite a v).regs = s.regs := rfl
@[simp] theorem State.busWrite_settle : (s.busWrite a v).settle = s.settle := rfl
@[simp] theorem State.busWrite_pc : (s.busWrite a v).pc = s.pc := rfl
@[simp] theorem State.busWrite_carry : (s.busWrite a v).carry = s.carry := rfl
@[simp] theorem State.busWrite_zero : (s.busWrite a v).zero = s.zero := rfl
@[simp] theorem State.busWrite_callStack : (s.busWrite a v).callStack = s.callStack := rfl
@[simp] theorem State.busWrite_intr : (s.busWrite a v).intr = s.intr := rfl
@[simp] theorem State.busWrite_running : (s.busWrite a v).running = s.running := rfl
@[simp] theorem State.busWrite_fault : (s.busWrite a v).fault = s.fault := rfl
@[simp] theorem State.busWrite_faultPc : (s.busWrite a v).faultPc = s.faultPc := rfl
@[simp] theorem State.busWrite_fetchL : (s.busWrite a v).fetchL = s.fetchL := rfl
@[simp] theorem State.busWrite_decodeL : (s.busWrite a v).decodeL = s.decodeL := rfl
@[simp] theorem State.busWrite_executeL : (s.busWrite a v).executeL = s.executeL := rfl
@[simp] theorem State.busWrite_aluA : (s.busWrite a v).aluA = s.aluA := rfl
@[simp] theorem State.busWrite_aluB : (s.busWrite a v).aluB = s.aluB := rfl
@[simp] theorem State.busWrite_aluOp : (s.busWrite a v).aluOp = s.aluOp := rfl
@[simp] theorem State.busWrite_imem : (s.busWrite a v).imem = s.imem := rfl
@[simp] theorem State.busWrite_progLen : (s.busWrite a v).progLen = s.progLen := rfl
@[simp] theorem State.busWrite_rom : (s.busWrite a v).rom = s.rom := rfl
@[simp] theorem State.busWrite_ram : (s.busWrite a v).ram = s.ramAfterWrite a v := rfl
@[simp] theorem State.busWrite_keys : (s.busWrite a v).keys = s.keys := rfl
@[simp] theorem State.busWrite_display : (s.busWrite a v).display = s.displayAfterWrite a v := rfl
@[simp] theorem State.busWrite_labels : (s.busWrite a v).labels = s.labels := rfl
@[simp] theorem State.busWrite_files : (s.busWrite a v).files = s.files := rfl
@[simp] theorem State.busWrite_events : (s.busWrite a v).events = s.events := rfl
@[simp] theorem State.busWrite_reply : (s.busWrite a v).reply = s.reply := rfl
@[simp] theorem State.busWrite_cfg : (s.busWrite a v).cfg = s.cfg := rfl
@[simp] theorem State.busWrite_draws : (s.busWrite a v).draws = s.draws := rfl

end busWrite

section aluStore

variable (s : State) (op : AluOp) (r : Reg) (a b : Nibble)

@[simp] theorem State.aluStore_regs : (s.aluStore op r a b).regs = s.regs.set r ⟨(alu op a b).result, false⟩ := rfl
@[simp] theorem State.aluStore_settle : (s.aluStore op r a b).settle = s.settle := rfl
@[simp] theorem State.aluStore_pc : (s.aluStore op r a b).pc = s.pc := rfl
@[simp] theorem State.aluStore_carry : (s.aluStore op r a b).carry = (alu op a b).carry := rfl
@[simp] theorem State.aluStore_zero : (s.aluStore op r a b).zero = (alu op a b).zero := rfl
@[simp] theorem State.aluStore_callStack : (s.aluStore op r a b).callStack = s.callStack := rfl
@[simp] theorem State.aluStore_intr : (s.aluStore op r a b).intr = s.intr := rfl
@[simp] theorem State.aluStore_running : (s.aluStore op r a b).running = s.running := rfl
@[simp] theorem State.aluStore_fault : (s.aluStore op r a b).fault = s.fault := rfl
@[simp] theorem State.aluStore_faultPc : (s.aluStore op r a b).faultPc = s.faultPc := rfl
@[simp] theorem State.aluStore_fetchL : (s.aluStore op r a b).fetchL = s.fetchL := rfl
@[simp] theorem State.aluStore_decodeL : (s.aluStore op r a b).decodeL = s.decodeL := rfl
@[simp] theorem State.aluStore_executeL : (s.aluStore op r a b).executeL = s.executeL := rfl
@[simp] theorem State.aluStore_aluA : (s.aluStore op r a b).aluA = a := rfl
@[simp] theorem State.aluStore_aluB : (s.aluStore op r a b).aluB = b := rfl
@[simp] theorem State.aluStore_aluOp : (s.aluStore op r a b).aluOp = op := rfl
@[simp] theorem State.aluStore_imem : (s.aluStore op r a b).imem = s.imem := rfl
@[simp] theorem State.aluStore_progLen : (s.aluStore op r a b).progLen = s.progLen := rfl
@[simp] theorem State.aluStore_rom : (s.aluStore op r a b).rom = s.rom := rfl
@[simp] theorem State.aluStore_ram : (s.aluStore op r a b).ram = s.ram := rfl
@[simp] theorem State.aluStore_keys : (s.aluStore op r a b).keys = s.keys := rfl
@[simp] theorem State.aluStore_display : (s.aluStore op r a b).display = s.display := rfl
@[simp] theorem State.aluStore_labels : (s.aluStore op r a b).labels = s.labels := rfl
@[simp] theorem State.aluStore_files : (s.aluStore op r a b).files = s.files := rfl
@[simp] theorem State.aluStore_events : (s.aluStore op r a b).events = s.events := rfl
@[simp] theorem State.aluStore_reply : (s.aluStore op r a b).reply = s.reply := rfl
@[simp] theorem State.aluStore_cfg : (s.aluStore op r a b).cfg = s.cfg := rfl
@[simp] theorem State.aluStore_draws : (s.aluStore op r a b).draws = s.draws := rfl

end aluStore

section aluCompare

variable (s : State) (a b : Nibble)

@[simp] theorem State.aluCompare_regs : (s.aluCompare a b).regs = s.regs := rfl
@[simp] theorem State.aluCompare_settle : (s.aluCompare a b).settle = s.settle := rfl
@[simp] theorem State.aluCompare_pc : (s.aluCompare a b).pc = s.pc := rfl
@[simp] theorem State.aluCompare_carry : (s.aluCompare a b).carry = (alu .cmp a b).carry := rfl
@[simp] theorem State.aluCompare_zero : (s.aluCompare a b).zero = (alu .cmp a b).zero := rfl
@[simp] theorem State.aluCompare_callStack : (s.aluCompare a b).callStack = s.callStack := rfl
@[simp] theorem State.aluCompare_intr : (s.aluCompare a b).intr = s.intr := rfl
@[simp] theorem State.aluCompare_running : (s.aluCompare a b).running = s.running := rfl
@[simp] theorem State.aluCompare_fault : (s.aluCompare a b).fault = s.fault := rfl
@[simp] theorem State.aluCompare_faultPc : (s.aluCompare a b).faultPc = s.faultPc := rfl
@[simp] theorem State.aluCompare_fetchL : (s.aluCompare a b).fetchL = s.fetchL := rfl
@[simp] theorem State.aluCompare_decodeL : (s.aluCompare a b).decodeL = s.decodeL := rfl
@[simp] theorem State.aluCompare_executeL : (s.aluCompare a b).executeL = s.executeL := rfl
@[simp] theorem State.aluCompare_aluA : (s.aluCompare a b).aluA = s.aluA := rfl
@[simp] theorem State.aluCompare_aluB : (s.aluCompare a b).aluB = s.aluB := rfl
@[simp] theorem State.aluCompare_aluOp : (s.aluCompare a b).aluOp = s.aluOp := rfl
@[simp] theorem State.aluCompare_imem : (s.aluCompare a b).imem = s.imem := rfl
@[simp] theorem State.aluCompare_progLen : (s.aluCompare a b).progLen = s.progLen := rfl
@[simp] theorem State.aluCompare_rom : (s.aluCompare a b).rom = s.rom := rfl
@[simp] theorem State.aluCompare_ram : (s.aluCompare a b).ram = s.ram := rfl
@[simp] theorem State.aluCompare_keys : (s.aluCompare a b).keys = s.keys := rfl
@[simp] theorem State.aluCompare_display : (s.aluCompare a b).display = s.display := rfl
@[simp] theorem State.aluCompare_labels : (s.aluCompare a b).labels = s.labels := rfl
@[simp] theorem State.aluCompare_files : (s.aluCompare a b).files = s.files := rfl
@[simp] theorem State.aluCompare_events : (s.aluCompare a b).events = s.events := rfl
@[simp] theorem State.aluCompare_reply : (s.aluCompare a b).reply = s.reply := rfl
@[simp] theorem State.aluCompare_cfg : (s.aluCompare a b).cfg = s.cfg := rfl
@[simp] theorem State.aluCompare_draws : (s.aluCompare a b).draws = s.draws := rfl

end aluCompare

section next

variable (s : State)

@[simp] theorem State.next_regs : (s.next).regs = s.regs := rfl
@[simp] theorem State.next_settle : (s.next).settle = s.settle := rfl
@[simp] theorem State.next_pc : (s.next).pc = if s.executeL.isSome then s.pc else pcIncrement s.pc := rfl
@[simp] theorem State.next_carry : (s.next).carry = s.carry := rfl
@[simp] theorem State.next_zero : (s.next).zero = s.zero := rfl
@[simp] theorem State.next_callStack : (s.next).callStack = s.callStack := rfl
@[simp] theorem State.next_intr : (s.next).intr = s.intr := rfl
@[simp] theorem State.next_running : (s.next).running = s.running := rfl
@[simp] theorem State.next_fault : (s.next).fault = s.fault := rfl
@[simp] theorem State.next_faultPc : (s.next).faultPc = s.faultPc := rfl
@[simp] theorem State.next_fetchL : (s.next).fetchL = s.fetchL := rfl
@[simp] theorem State.next_decodeL : (s.next).decodeL = s.decodeL := rfl
@[simp] theorem State.next_executeL : (s.next).executeL = none := rfl
@[simp] theorem State.next_aluA : (s.next).aluA = s.aluA := rfl
@[simp] theorem State.next_aluB : (s.next).aluB = s.aluB := rfl
@[simp] theorem State.next_aluOp : (s.next).aluOp = s.aluOp := rfl
@[simp] theorem State.next_imem : (s.next).imem = s.imem := rfl
@[simp] theorem State.next_progLen : (s.next).progLen = s.progLen := rfl
@[simp] theorem State.next_rom : (s.next).rom = s.rom := rfl
@[simp] theorem State.next_ram : (s.next).ram = s.ram := rfl
@[simp] theorem State.next_keys : (s.next).keys = s.keys := rfl
@[simp] theorem State.next_display : (s.next).display = s.display := rfl
@[simp] theorem State.next_labels : (s.next).labels = s.labels := rfl
@[simp] theorem State.next_files : (s.next).files = s.files := rfl
@[simp] theorem State.next_events : (s.next).events = s.events := rfl
@[simp] theorem State.next_reply : (s.next).reply = s.reply := rfl
@[simp] theorem State.next_cfg : (s.next).cfg = s.cfg := rfl
@[simp] theorem State.next_draws : (s.next).draws = s.draws := rfl

end next

section jumpTo

variable (s : State) (t : Nibble)

@[simp] theorem State.jumpTo_regs : (s.jumpTo t).regs = s.regs := rfl
@[simp] theorem State.jumpTo_settle : (s.jumpTo t).settle = s.settle := rfl
@[simp] theorem State.jumpTo_pc : (s.jumpTo t).pc = t := rfl
@[simp] theorem State.jumpTo_carry : (s.jumpTo t).carry = s.carry := rfl
@[simp] theorem State.jumpTo_zero : (s.jumpTo t).zero = s.zero := rfl
@[simp] theorem State.jumpTo_callStack : (s.jumpTo t).callStack = s.callStack := rfl
@[simp] theorem State.jumpTo_intr : (s.jumpTo t).intr = s.intr := rfl
@[simp] theorem State.jumpTo_running : (s.jumpTo t).running = s.running := rfl
@[simp] theorem State.jumpTo_fault : (s.jumpTo t).fault = s.fault := rfl
@[simp] theorem State.jumpTo_faultPc : (s.jumpTo t).faultPc = s.faultPc := rfl
@[simp] theorem State.jumpTo_fetchL : (s.jumpTo t).fetchL = none := rfl
@[simp] theorem State.jumpTo_decodeL : (s.jumpTo t).decodeL = none := rfl
@[simp] theorem State.jumpTo_executeL : (s.jumpTo t).executeL = none := rfl
@[simp] theorem State.jumpTo_aluA : (s.jumpTo t).aluA = s.aluA := rfl
@[simp] theorem State.jumpTo_aluB : (s.jumpTo t).aluB = s.aluB := rfl
@[simp] theorem State.jumpTo_aluOp : (s.jumpTo t).aluOp = s.aluOp := rfl
@[simp] theorem State.jumpTo_imem : (s.jumpTo t).imem = s.imem := rfl
@[simp] theorem State.jumpTo_progLen : (s.jumpTo t).progLen = s.progLen := rfl
@[simp] theorem State.jumpTo_rom : (s.jumpTo t).rom = s.rom := rfl
@[simp] theorem State.jumpTo_ram : (s.jumpTo t).ram = s.ram := rfl
@[simp] theorem State.jumpTo_keys : (s.jumpTo t).keys = s.keys := rfl
@[simp] theorem State.jumpTo_display : (s.jumpTo t).display = s.display := rfl
@[simp] theorem State.jumpTo_labels : (s.jumpTo t).labels = s.labels := rfl
@[simp] theorem State.jumpTo_files : (s.jumpTo t).files = s.files := rfl
@[simp] theorem State.jumpTo_events : (s.jumpTo t).events = s.events := rfl
@[simp] theorem State.jumpTo_reply : (s.jumpTo t).reply = s.reply := rfl
@[simp] theorem State.jumpTo_cfg : (s.jumpTo t).cfg = s.cfg := rfl
@[simp] theorem State.jumpTo_draws : (s.jumpTo t).draws = s.draws := rfl

end jumpTo

section halt

variable (s : State)

@[simp] theorem State.halt_regs : (s.halt).regs = s.regs := rfl
@[simp] theorem State.halt_settle : (s.halt).settle = s.settle := rfl
@[simp] theorem State.halt_pc : (s.halt).pc = s.ownPc := rfl
@[simp] theorem State.halt_carry : (s.halt).carry = s.carry := rfl
@[simp] theorem State.halt_zero : (s.halt).zero = s.zero := rfl
@[simp] theorem State.halt_callStack : (s.halt).callStack = s.callStack := rfl
@[simp] theorem State.halt_intr : (s.halt).intr = s.intr := rfl
@[simp] theorem State.halt_running : (s.halt).running = false := rfl
@[simp] theorem State.halt_fault : (s.halt).fault = s.fault := rfl
@[simp] theorem State.halt_faultPc : (s.halt).faultPc = s.faultPc := rfl
@[simp] theorem State.halt_fetchL : (s.halt).fetchL = none := rfl
@[simp] theorem State.halt_decodeL : (s.halt).decodeL = none := rfl
@[simp] theorem State.halt_executeL : (s.halt).executeL = none := rfl
@[simp] theorem State.halt_aluA : (s.halt).aluA = s.aluA := rfl
@[simp] theorem State.halt_aluB : (s.halt).aluB = s.aluB := rfl
@[simp] theorem State.halt_aluOp : (s.halt).aluOp = s.aluOp := rfl
@[simp] theorem State.halt_imem : (s.halt).imem = s.imem := rfl
@[simp] theorem State.halt_progLen : (s.halt).progLen = s.progLen := rfl
@[simp] theorem State.halt_rom : (s.halt).rom = s.rom := rfl
@[simp] theorem State.halt_ram : (s.halt).ram = s.ram := rfl
@[simp] theorem State.halt_keys : (s.halt).keys = s.keys := rfl
@[simp] theorem State.halt_display : (s.halt).display = s.display := rfl
@[simp] theorem State.halt_labels : (s.halt).labels = s.labels := rfl
@[simp] theorem State.halt_files : (s.halt).files = s.files := rfl
@[simp] theorem State.halt_events : (s.halt).events = s.events := rfl
@[simp] theorem State.halt_reply : (s.halt).reply = s.reply := rfl
@[simp] theorem State.halt_cfg : (s.halt).cfg = s.cfg := rfl
@[simp] theorem State.halt_draws : (s.halt).draws = s.draws := rfl

end halt

section raise

variable (s : State) (c : FaultCode)

@[simp] theorem State.raise_regs : (s.raise c).regs = s.regs := rfl
@[simp] theorem State.raise_settle : (s.raise c).settle = s.settle := rfl
@[simp] theorem State.raise_pc : (s.raise c).pc = s.ownPc := rfl
@[simp] theorem State.raise_carry : (s.raise c).carry = s.carry := rfl
@[simp] theorem State.raise_zero : (s.raise c).zero = s.zero := rfl
@[simp] theorem State.raise_callStack : (s.raise c).callStack = s.callStack := rfl
@[simp] theorem State.raise_intr : (s.raise c).intr = s.intr := rfl
@[simp] theorem State.raise_running : (s.raise c).running = false := rfl
@[simp] theorem State.raise_fault : (s.raise c).fault = c := rfl
@[simp] theorem State.raise_faultPc : (s.raise c).faultPc = s.ownPc := rfl
@[simp] theorem State.raise_fetchL : (s.raise c).fetchL = none := rfl
@[simp] theorem State.raise_decodeL : (s.raise c).decodeL = none := rfl
@[simp] theorem State.raise_executeL : (s.raise c).executeL = none := rfl
@[simp] theorem State.raise_aluA : (s.raise c).aluA = s.aluA := rfl
@[simp] theorem State.raise_aluB : (s.raise c).aluB = s.aluB := rfl
@[simp] theorem State.raise_aluOp : (s.raise c).aluOp = s.aluOp := rfl
@[simp] theorem State.raise_imem : (s.raise c).imem = s.imem := rfl
@[simp] theorem State.raise_progLen : (s.raise c).progLen = s.progLen := rfl
@[simp] theorem State.raise_rom : (s.raise c).rom = s.rom := rfl
@[simp] theorem State.raise_ram : (s.raise c).ram = s.ram := rfl
@[simp] theorem State.raise_keys : (s.raise c).keys = s.keys := rfl
@[simp] theorem State.raise_display : (s.raise c).display = s.display := rfl
@[simp] theorem State.raise_labels : (s.raise c).labels = s.labels := rfl
@[simp] theorem State.raise_files : (s.raise c).files = s.files := rfl
@[simp] theorem State.raise_events : (s.raise c).events = s.events := rfl
@[simp] theorem State.raise_reply : (s.raise c).reply = s.reply := rfl
@[simp] theorem State.raise_cfg : (s.raise c).cfg = s.cfg := rfl
@[simp] theorem State.raise_draws : (s.raise c).draws = s.draws := rfl

end raise

section push

variable (s : State) (v : Nibble)

@[simp] theorem State.push_regs : (s.push v).regs = s.regs := rfl
@[simp] theorem State.push_settle : (s.push v).settle = s.settle := rfl
@[simp] theorem State.push_pc : (s.push v).pc = s.pc := rfl
@[simp] theorem State.push_carry : (s.push v).carry = s.carry := rfl
@[simp] theorem State.push_zero : (s.push v).zero = s.zero := rfl
@[simp] theorem State.push_callStack : (s.push v).callStack = v :: s.callStack := rfl
@[simp] theorem State.push_intr : (s.push v).intr = s.intr := rfl
@[simp] theorem State.push_running : (s.push v).running = s.running := rfl
@[simp] theorem State.push_fault : (s.push v).fault = s.fault := rfl
@[simp] theorem State.push_faultPc : (s.push v).faultPc = s.faultPc := rfl
@[simp] theorem State.push_fetchL : (s.push v).fetchL = s.fetchL := rfl
@[simp] theorem State.push_decodeL : (s.push v).decodeL = s.decodeL := rfl
@[simp] theorem State.push_executeL : (s.push v).executeL = s.executeL := rfl
@[simp] theorem State.push_aluA : (s.push v).aluA = s.aluA := rfl
@[simp] theorem State.push_aluB : (s.push v).aluB = s.aluB := rfl
@[simp] theorem State.push_aluOp : (s.push v).aluOp = s.aluOp := rfl
@[simp] theorem State.push_imem : (s.push v).imem = s.imem := rfl
@[simp] theorem State.push_progLen : (s.push v).progLen = s.progLen := rfl
@[simp] theorem State.push_rom : (s.push v).rom = s.rom := rfl
@[simp] theorem State.push_ram : (s.push v).ram = s.ram := rfl
@[simp] theorem State.push_keys : (s.push v).keys = s.keys := rfl
@[simp] theorem State.push_display : (s.push v).display = s.display := rfl
@[simp] theorem State.push_labels : (s.push v).labels = s.labels := rfl
@[simp] theorem State.push_files : (s.push v).files = s.files := rfl
@[simp] theorem State.push_events : (s.push v).events = s.events := rfl
@[simp] theorem State.push_reply : (s.push v).reply = s.reply := rfl
@[simp] theorem State.push_cfg : (s.push v).cfg = s.cfg := rfl
@[simp] theorem State.push_draws : (s.push v).draws = s.draws := rfl

end push

section pop

variable (s : State)

@[simp] theorem State.pop_regs : (s.pop).regs = s.regs := rfl
@[simp] theorem State.pop_settle : (s.pop).settle = s.settle := rfl
@[simp] theorem State.pop_pc : (s.pop).pc = s.pc := rfl
@[simp] theorem State.pop_carry : (s.pop).carry = s.carry := rfl
@[simp] theorem State.pop_zero : (s.pop).zero = s.zero := rfl
@[simp] theorem State.pop_callStack : (s.pop).callStack = s.callStack.tail := rfl
@[simp] theorem State.pop_intr : (s.pop).intr = s.intr := rfl
@[simp] theorem State.pop_running : (s.pop).running = s.running := rfl
@[simp] theorem State.pop_fault : (s.pop).fault = s.fault := rfl
@[simp] theorem State.pop_faultPc : (s.pop).faultPc = s.faultPc := rfl
@[simp] theorem State.pop_fetchL : (s.pop).fetchL = s.fetchL := rfl
@[simp] theorem State.pop_decodeL : (s.pop).decodeL = s.decodeL := rfl
@[simp] theorem State.pop_executeL : (s.pop).executeL = s.executeL := rfl
@[simp] theorem State.pop_aluA : (s.pop).aluA = s.aluA := rfl
@[simp] theorem State.pop_aluB : (s.pop).aluB = s.aluB := rfl
@[simp] theorem State.pop_aluOp : (s.pop).aluOp = s.aluOp := rfl
@[simp] theorem State.pop_imem : (s.pop).imem = s.imem := rfl
@[simp] theorem State.pop_progLen : (s.pop).progLen = s.progLen := rfl
@[simp] theorem State.pop_rom : (s.pop).rom = s.rom := rfl
@[simp] theorem State.pop_ram : (s.pop).ram = s.ram := rfl
@[simp] theorem State.pop_keys : (s.pop).keys = s.keys := rfl
@[simp] theorem State.pop_display : (s.pop).display = s.display := rfl
@[simp] theorem State.pop_labels : (s.pop).labels = s.labels := rfl
@[simp] theorem State.pop_files : (s.pop).files = s.files := rfl
@[simp] theorem State.pop_events : (s.pop).events = s.events := rfl
@[simp] theorem State.pop_reply : (s.pop).reply = s.reply := rfl
@[simp] theorem State.pop_cfg : (s.pop).cfg = s.cfg := rfl
@[simp] theorem State.pop_draws : (s.pop).draws = s.draws := rfl

end pop

section takeLine

variable (s : State) (i : BitVec 2)

@[simp] theorem State.takeLine_regs : (s.takeLine i).regs = s.regs := rfl
@[simp] theorem State.takeLine_settle : (s.takeLine i).settle = s.settle := rfl
@[simp] theorem State.takeLine_pc : (s.takeLine i).pc = irqVector i := rfl
@[simp] theorem State.takeLine_carry : (s.takeLine i).carry = s.carry := rfl
@[simp] theorem State.takeLine_zero : (s.takeLine i).zero = s.zero := rfl
@[simp] theorem State.takeLine_callStack : (s.takeLine i).callStack = s.callStack := rfl
@[simp] theorem State.takeLine_intr : (s.takeLine i).intr = { s.intr with
      savedPc := s.oldestPc, savedCarry := s.carry, savedZero := s.zero, inHandler := true
      status := s.intr.status &&& ~~~lineBit i } := rfl
@[simp] theorem State.takeLine_running : (s.takeLine i).running = s.running := rfl
@[simp] theorem State.takeLine_fault : (s.takeLine i).fault = s.fault := rfl
@[simp] theorem State.takeLine_faultPc : (s.takeLine i).faultPc = s.faultPc := rfl
@[simp] theorem State.takeLine_fetchL : (s.takeLine i).fetchL = none := rfl
@[simp] theorem State.takeLine_decodeL : (s.takeLine i).decodeL = none := rfl
@[simp] theorem State.takeLine_executeL : (s.takeLine i).executeL = none := rfl
@[simp] theorem State.takeLine_aluA : (s.takeLine i).aluA = s.aluA := rfl
@[simp] theorem State.takeLine_aluB : (s.takeLine i).aluB = s.aluB := rfl
@[simp] theorem State.takeLine_aluOp : (s.takeLine i).aluOp = s.aluOp := rfl
@[simp] theorem State.takeLine_imem : (s.takeLine i).imem = s.imem := rfl
@[simp] theorem State.takeLine_progLen : (s.takeLine i).progLen = s.progLen := rfl
@[simp] theorem State.takeLine_rom : (s.takeLine i).rom = s.rom := rfl
@[simp] theorem State.takeLine_ram : (s.takeLine i).ram = s.ram := rfl
@[simp] theorem State.takeLine_keys : (s.takeLine i).keys = s.keys := rfl
@[simp] theorem State.takeLine_display : (s.takeLine i).display = s.display := rfl
@[simp] theorem State.takeLine_labels : (s.takeLine i).labels = s.labels := rfl
@[simp] theorem State.takeLine_files : (s.takeLine i).files = s.files := rfl
@[simp] theorem State.takeLine_events : (s.takeLine i).events = s.events := rfl
@[simp] theorem State.takeLine_reply : (s.takeLine i).reply = s.reply := rfl
@[simp] theorem State.takeLine_cfg : (s.takeLine i).cfg = s.cfg := rfl
@[simp] theorem State.takeLine_draws : (s.takeLine i).draws = s.draws := rfl

end takeLine

section requestLine

variable (s : State) (i : BitVec 2)

@[simp] theorem State.requestLine_regs : (s.requestLine i).regs = s.regs := rfl
@[simp] theorem State.requestLine_settle : (s.requestLine i).settle = s.settle := rfl
@[simp] theorem State.requestLine_pc : (s.requestLine i).pc = s.pc := rfl
@[simp] theorem State.requestLine_carry : (s.requestLine i).carry = s.carry := rfl
@[simp] theorem State.requestLine_zero : (s.requestLine i).zero = s.zero := rfl
@[simp] theorem State.requestLine_callStack : (s.requestLine i).callStack = s.callStack := rfl
@[simp] theorem State.requestLine_intr : (s.requestLine i).intr = { s.intr with status := s.intr.status ||| lineBit i } := rfl
@[simp] theorem State.requestLine_running : (s.requestLine i).running = s.running := rfl
@[simp] theorem State.requestLine_fault : (s.requestLine i).fault = s.fault := rfl
@[simp] theorem State.requestLine_faultPc : (s.requestLine i).faultPc = s.faultPc := rfl
@[simp] theorem State.requestLine_fetchL : (s.requestLine i).fetchL = s.fetchL := rfl
@[simp] theorem State.requestLine_decodeL : (s.requestLine i).decodeL = s.decodeL := rfl
@[simp] theorem State.requestLine_executeL : (s.requestLine i).executeL = s.executeL := rfl
@[simp] theorem State.requestLine_aluA : (s.requestLine i).aluA = s.aluA := rfl
@[simp] theorem State.requestLine_aluB : (s.requestLine i).aluB = s.aluB := rfl
@[simp] theorem State.requestLine_aluOp : (s.requestLine i).aluOp = s.aluOp := rfl
@[simp] theorem State.requestLine_imem : (s.requestLine i).imem = s.imem := rfl
@[simp] theorem State.requestLine_progLen : (s.requestLine i).progLen = s.progLen := rfl
@[simp] theorem State.requestLine_rom : (s.requestLine i).rom = s.rom := rfl
@[simp] theorem State.requestLine_ram : (s.requestLine i).ram = s.ram := rfl
@[simp] theorem State.requestLine_keys : (s.requestLine i).keys = s.keys := rfl
@[simp] theorem State.requestLine_display : (s.requestLine i).display = s.display := rfl
@[simp] theorem State.requestLine_labels : (s.requestLine i).labels = s.labels := rfl
@[simp] theorem State.requestLine_files : (s.requestLine i).files = s.files := rfl
@[simp] theorem State.requestLine_events : (s.requestLine i).events = s.events := rfl
@[simp] theorem State.requestLine_reply : (s.requestLine i).reply = s.reply := rfl
@[simp] theorem State.requestLine_cfg : (s.requestLine i).cfg = s.cfg := rfl
@[simp] theorem State.requestLine_draws : (s.requestLine i).draws = s.draws := rfl

end requestLine

section returnFromIrq

variable (s : State)

@[simp] theorem State.returnFromIrq_regs : (s.returnFromIrq).regs = s.regs := rfl
@[simp] theorem State.returnFromIrq_settle : (s.returnFromIrq).settle = s.settle := rfl
@[simp] theorem State.returnFromIrq_pc : (s.returnFromIrq).pc = s.intr.savedPc := rfl
@[simp] theorem State.returnFromIrq_carry : (s.returnFromIrq).carry = s.intr.savedCarry := rfl
@[simp] theorem State.returnFromIrq_zero : (s.returnFromIrq).zero = s.intr.savedZero := rfl
@[simp] theorem State.returnFromIrq_callStack : (s.returnFromIrq).callStack = s.callStack := rfl
@[simp] theorem State.returnFromIrq_intr : (s.returnFromIrq).intr = { s.intr with inHandler := false } := rfl
@[simp] theorem State.returnFromIrq_running : (s.returnFromIrq).running = s.running := rfl
@[simp] theorem State.returnFromIrq_fault : (s.returnFromIrq).fault = s.fault := rfl
@[simp] theorem State.returnFromIrq_faultPc : (s.returnFromIrq).faultPc = s.faultPc := rfl
@[simp] theorem State.returnFromIrq_fetchL : (s.returnFromIrq).fetchL = none := rfl
@[simp] theorem State.returnFromIrq_decodeL : (s.returnFromIrq).decodeL = none := rfl
@[simp] theorem State.returnFromIrq_executeL : (s.returnFromIrq).executeL = none := rfl
@[simp] theorem State.returnFromIrq_aluA : (s.returnFromIrq).aluA = s.aluA := rfl
@[simp] theorem State.returnFromIrq_aluB : (s.returnFromIrq).aluB = s.aluB := rfl
@[simp] theorem State.returnFromIrq_aluOp : (s.returnFromIrq).aluOp = s.aluOp := rfl
@[simp] theorem State.returnFromIrq_imem : (s.returnFromIrq).imem = s.imem := rfl
@[simp] theorem State.returnFromIrq_progLen : (s.returnFromIrq).progLen = s.progLen := rfl
@[simp] theorem State.returnFromIrq_rom : (s.returnFromIrq).rom = s.rom := rfl
@[simp] theorem State.returnFromIrq_ram : (s.returnFromIrq).ram = s.ram := rfl
@[simp] theorem State.returnFromIrq_keys : (s.returnFromIrq).keys = s.keys := rfl
@[simp] theorem State.returnFromIrq_display : (s.returnFromIrq).display = s.display := rfl
@[simp] theorem State.returnFromIrq_labels : (s.returnFromIrq).labels = s.labels := rfl
@[simp] theorem State.returnFromIrq_files : (s.returnFromIrq).files = s.files := rfl
@[simp] theorem State.returnFromIrq_events : (s.returnFromIrq).events = s.events := rfl
@[simp] theorem State.returnFromIrq_reply : (s.returnFromIrq).reply = s.reply := rfl
@[simp] theorem State.returnFromIrq_cfg : (s.returnFromIrq).cfg = s.cfg := rfl
@[simp] theorem State.returnFromIrq_draws : (s.returnFromIrq).draws = s.draws := rfl

end returnFromIrq

section settleTick

variable (s : State)

@[simp] theorem State.settleTick_settle : (s.settleTick).settle = s.settle - 1 := rfl
@[simp] theorem State.settleTick_pc : (s.settleTick).pc = s.pc := rfl
@[simp] theorem State.settleTick_carry : (s.settleTick).carry = s.carry := rfl
@[simp] theorem State.settleTick_zero : (s.settleTick).zero = s.zero := rfl
@[simp] theorem State.settleTick_callStack : (s.settleTick).callStack = s.callStack := rfl
@[simp] theorem State.settleTick_intr : (s.settleTick).intr = s.intr := rfl
@[simp] theorem State.settleTick_running : (s.settleTick).running = s.running := rfl
@[simp] theorem State.settleTick_fault : (s.settleTick).fault = s.fault := rfl
@[simp] theorem State.settleTick_faultPc : (s.settleTick).faultPc = s.faultPc := rfl
@[simp] theorem State.settleTick_fetchL : (s.settleTick).fetchL = s.fetchL := rfl
@[simp] theorem State.settleTick_decodeL : (s.settleTick).decodeL = s.decodeL := rfl
@[simp] theorem State.settleTick_executeL : (s.settleTick).executeL = s.executeL := rfl
@[simp] theorem State.settleTick_aluA : (s.settleTick).aluA = s.aluA := rfl
@[simp] theorem State.settleTick_aluB : (s.settleTick).aluB = s.aluB := rfl
@[simp] theorem State.settleTick_aluOp : (s.settleTick).aluOp = s.aluOp := rfl
@[simp] theorem State.settleTick_imem : (s.settleTick).imem = s.imem := rfl
@[simp] theorem State.settleTick_progLen : (s.settleTick).progLen = s.progLen := rfl
@[simp] theorem State.settleTick_rom : (s.settleTick).rom = s.rom := rfl
@[simp] theorem State.settleTick_ram : (s.settleTick).ram = s.ram := rfl
@[simp] theorem State.settleTick_keys : (s.settleTick).keys = s.keys := rfl
@[simp] theorem State.settleTick_display : (s.settleTick).display = s.display := rfl
@[simp] theorem State.settleTick_labels : (s.settleTick).labels = s.labels := rfl
@[simp] theorem State.settleTick_files : (s.settleTick).files = s.files := rfl
@[simp] theorem State.settleTick_events : (s.settleTick).events = s.events := rfl
@[simp] theorem State.settleTick_reply : (s.settleTick).reply = s.reply := rfl
@[simp] theorem State.settleTick_cfg : (s.settleTick).cfg = s.cfg := rfl
@[simp] theorem State.settleTick_draws : (s.settleTick).draws = s.draws := rfl

end settleTick

section answer

variable (s : State) (r : Reply)

@[simp] theorem State.answer_regs : (s.answer r).regs = s.regs := rfl
@[simp] theorem State.answer_settle : (s.answer r).settle = s.settle := rfl
@[simp] theorem State.answer_pc : (s.answer r).pc = s.pc := rfl
@[simp] theorem State.answer_carry : (s.answer r).carry = s.carry := rfl
@[simp] theorem State.answer_zero : (s.answer r).zero = s.zero := rfl
@[simp] theorem State.answer_callStack : (s.answer r).callStack = s.callStack := rfl
@[simp] theorem State.answer_intr : (s.answer r).intr = s.intr := rfl
@[simp] theorem State.answer_running : (s.answer r).running = s.running := rfl
@[simp] theorem State.answer_fault : (s.answer r).fault = s.fault := rfl
@[simp] theorem State.answer_faultPc : (s.answer r).faultPc = s.faultPc := rfl
@[simp] theorem State.answer_fetchL : (s.answer r).fetchL = s.fetchL := rfl
@[simp] theorem State.answer_decodeL : (s.answer r).decodeL = s.decodeL := rfl
@[simp] theorem State.answer_executeL : (s.answer r).executeL = s.executeL := rfl
@[simp] theorem State.answer_aluA : (s.answer r).aluA = s.aluA := rfl
@[simp] theorem State.answer_aluB : (s.answer r).aluB = s.aluB := rfl
@[simp] theorem State.answer_aluOp : (s.answer r).aluOp = s.aluOp := rfl
@[simp] theorem State.answer_imem : (s.answer r).imem = s.imem := rfl
@[simp] theorem State.answer_progLen : (s.answer r).progLen = s.progLen := rfl
@[simp] theorem State.answer_rom : (s.answer r).rom = s.rom := rfl
@[simp] theorem State.answer_ram : (s.answer r).ram = s.ram := rfl
@[simp] theorem State.answer_keys : (s.answer r).keys = s.keys := rfl
@[simp] theorem State.answer_display : (s.answer r).display = s.display := rfl
@[simp] theorem State.answer_labels : (s.answer r).labels = s.labels := rfl
@[simp] theorem State.answer_files : (s.answer r).files = s.files := rfl
@[simp] theorem State.answer_events : (s.answer r).events = s.events := rfl
@[simp] theorem State.answer_reply : (s.answer r).reply = r := rfl
@[simp] theorem State.answer_cfg : (s.answer r).cfg = s.cfg := rfl
@[simp] theorem State.answer_draws : (s.answer r).draws = s.draws := rfl

end answer

end Sys2Proof.Machine
end

