-- ==== Sys2Proof/Laws/Registers.lean ====
section
/-! SUPPORT. The laws of the register file and of reading operands. -/

namespace Sys2Proof.Machine

@[simp] theorem RegFile.get_set_same (f : RegFile) (r : Reg) (c : RegCell) : (f.set r c).get r = c := by
  cases r <;> rfl

@[simp] theorem RegFile.get_set_other (f : RegFile) (r q : Reg) (c : RegCell) (h : q ≠ r) :
    (f.set r c).get q = f.get q := by
  cases r <;> cases q <;> first | rfl | exact absurd rfl h

/-- Equal registers make equal register files. -/
theorem RegFile.ext_get (f g : RegFile) (h : ∀ r, f.get r = g.get r) : f = g := by
  obtain ⟨a, b, c, d⟩ := f
  obtain ⟨a', b', c', d'⟩ := g
  have h0 : a = a' := h .r0
  have h1 : b = b' := h .r1
  have h2 : c = c' := h .r2
  have h3 : d = d' := h .r3
  rw [h0, h1, h2, h3]

/-- A settle tick stops a register from floating when the counter reaches 0, and keeps its value. -/
theorem State.settleTick_get (s : State) (r : Reg) :
    s.settleTick.regs.get r = (s.regs.get r).settled (s.settle - 1 == 0) := by
  cases r <;> rfl

/-- A register that does not float reads as its value and draws nothing. -/
theorem RegCell.read_of_settled (c : RegCell) (n : Nat) (h : c.floating = false) :
    c.read n = c.val ∧ c.drawsAfter n = n := by
  simp [RegCell.read, RegCell.drawsAfter, h]

/-- With X empty an instruction reads the register. -/
theorem State.regValue_of_empty (s : State) (r : Reg) (h : s.executeL = none) :
    s.regValue r = (s.regs.get r).read s.draws := by
  simp [State.regValue, State.latched, h]

/-- With X empty an instruction's read draws as the register's cell does. -/
theorem State.regDraws_of_empty (s : State) (r : Reg) (h : s.executeL = none) :
    s.regDraws r = (s.regs.get r).drawsAfter s.draws := by
  simp [State.regDraws, State.latched, h]

/-- With X holding a value for the register, an instruction reads that value. -/
theorem State.regValue_of_latched (s : State) (e : ExecuteEntry) (r : Reg) (v : Nibble)
    (h : s.executeL = some e) (hv : lookupOperand e.ops r = some v) :
    s.regValue r = v ∧ s.regDraws r = s.draws := by
  simp [State.regValue, State.regDraws, State.latched, h, hv]

/-- Reading a register depends on no other register (10_state.md R19). -/
theorem State.regValue_congr (s : State) (f : RegFile) (r : Reg) (h : f.get r = s.regs.get r) :
    State.regValue { s with regs := f } r = s.regValue r ∧ State.regDraws { s with regs := f } r = s.regDraws r := by
  constructor <;> simp only [State.regValue, State.regDraws, State.latched, h]

/-- Reading two registers depends on no other register. -/
theorem State.pairSecond_congr (s : State) (f : RegFile) (ra rb : Reg) (ha : f.get ra = s.regs.get ra)
    (hb : f.get rb = s.regs.get rb) :
    State.pairSecond { s with regs := f } ra rb = s.pairSecond ra rb ∧
      State.pairDraws { s with regs := f } ra rb = s.pairDraws ra rb := by
  have h1 := State.regValue_congr s f ra ha
  have h2 := State.regValue_congr (s.afterRead ra) f rb hb
  simp only [State.pairSecond, State.pairDraws, h1]
  by_cases hr : ra = rb
  · simp [hr]
  · simp only [hr, if_false, State.afterRead, h1] at h2 ⊢
    exact h2

/-- Operands are read for exactly the registers listed, in order. -/
theorem readOperands_regs (f : RegFile) (rs : List Reg) (n : Nat) :
    (readOperands f rs n).1.map Prod.fst = rs := by
  induction rs generalizing n with
  | nil => rfl
  | cons r rs ih => simp [readOperands, ih]

/-- While no register of the file floats, an operand read for a register is its value, and nothing is drawn. -/
theorem readOperands_settled (f : RegFile) (rs : List Reg) (n : Nat)
    (h : ∀ r, (f.get r).floating = false) :
    (readOperands f rs n).2 = n ∧
      ∀ r ∈ rs, lookupOperand (readOperands f rs n).1 r = some (f.get r).val := by
  induction rs generalizing n with
  | nil => exact ⟨rfl, by simp⟩
  | cons q rs ih =>
    have hq := RegCell.read_of_settled (f.get q) n (h q)
    simp only [readOperands, hq.1, hq.2]
    refine ⟨(ih n).1, fun r hr => ?_⟩
    simp only [lookupOperand]
    split
    · subst_vars
      rfl
    · rename_i hne
      exact (ih n).2 r ((List.mem_cons.1 hr).resolve_left fun h => hne h.symm)

end Sys2Proof.Machine
end

