-- ==== Sys2Proof/Laws/Exec.lean ====
section
/-! SUPPORT. What an instruction can do, said once: `exec_ends` for every instruction, and the shared operations of
control transfer it rests on. The proofs about Step, Tick and the invariant cite these lemmas. -/

namespace Sys2Proof.Machine

/-- What no instruction changes before its end (`next`, a transfer, a halt or a fault), and what it keeps of the
bounds of the state. -/
structure Undisturbed (s u : State) : Prop where
  pc : u.pc = s.pc
  running : u.running = s.running
  fault : u.fault = s.fault
  faultPc : u.faultPc = s.faultPc
  fetchL : u.fetchL = s.fetchL
  decodeL : u.decodeL = s.decodeL
  executeL : u.executeL = s.executeL
  imem : u.imem = s.imem
  progLen : u.progLen = s.progLen
  rom : u.rom = s.rom
  cfg : u.cfg = s.cfg
  settle : u.settle = s.settle
  events : u.events = s.events
  labels : u.labels = s.labels
  files : u.files = s.files
  reply : u.reply = s.reply
  mask : u.intr.mask = s.intr.mask
  enabled : u.intr.enabled = s.intr.enabled
  ram_wf : s.ram.wf s.cfg.ramSize = true → u.ram.wf s.cfg.ramSize = true
  stack_le : s.callStack.length ≤ s.cfg.callDepth → u.callStack.length ≤ s.cfg.callDepth
  settled : ∀ r, (s.regs.get r).floating = false → (u.regs.get r).floating = false

/-- Writing a register never makes one float. -/
theorem RegFile.set_settled (f : RegFile) (q r : Reg) (v : Nibble) (h : (f.get r).floating = false) :
    ((f.set q ⟨v, false⟩).get r).floating = false := by
  by_cases hr : r = q
  · subst hr
    simp
  · rw [RegFile.get_set_other f q r _ hr]
    exact h

theorem Undisturbed.refl (s : State) : Undisturbed s s := by
  constructor <;> simp

/-- Reading operands, writing a register, the flags and the ALU's latches disturb nothing else. -/
theorem Undisturbed.aluStore (s : State) (n : Nat) (op : AluOp) (r : Reg) (a b : Nibble) :
    Undisturbed s (State.aluStore { s with draws := n } op r a b) := by
  constructor <;> try simp
  exact fun q h => RegFile.set_settled _ _ _ _ h

theorem Undisturbed.aluCompare (s : State) (n : Nat) (a b : Nibble) :
    Undisturbed s (State.aluCompare { s with draws := n } a b) := by
  constructor <;> simp

theorem Undisturbed.writeReg (s : State) (n : Nat) (ks : List Nibble) (r : Reg) (v : Nibble) :
    Undisturbed s (State.writeReg { s with draws := n, keys := ks } r v) := by
  constructor <;> try simp
  exact fun q h => RegFile.set_settled _ _ _ _ h

theorem Undisturbed.busWrite (s : State) (n : Nat) (a v : Nibble) :
    Undisturbed s (State.busWrite { s with draws := n } a v) := by
  constructor <;> try simp
  exact fun h => State.ramAfterWrite_wf _ _ _ h

theorem Undisturbed.draws (s : State) (n : Nat) : Undisturbed s { s with draws := n } := by
  constructor <;> simp

/-- What an instruction can do: go on, transfer control, fault, or halt, after changes that leave the pacing of
the core alone. -/
def EndsWith (i : Instr) (s u : State) (o : Host.Outcome State Fault Refusal) : Prop :=
  (takesTransfer i s = false ∧ o = .next u.next) ∨
  (takesTransfer i s = true ∧ ∃ t, o = .next (u.jumpTo t)) ∨
  (∃ c, c ≠ FaultCode.none ∧ o = .next (u.raise c)) ∨
  (takesTransfer i s = false ∧ o = .next u.halt)

/-- `call` on a target (42_control_transfer.md R110): it transfers with the return address pushed, or faults. -/
theorem State.callTo_cases (s : State) (t : Nibble) :
    (s.callStack.length < s.cfg.callDepth ∧ s.callTo t = (s.push (pcIncrement s.ownPc)).jumpTo t) ∨
    (s.cfg.callDepth ≤ s.callStack.length ∧ s.callTo t = s.raise .stackOverflow) := by
  unfold State.callTo State.stackFull
  by_cases h : s.cfg.callDepth ≤ s.callStack.length
  · exact .inr ⟨h, by simp [h]⟩
  · exact .inl ⟨by omega, by simp [h]⟩

/-- `ret` (42_control_transfer.md R111): it transfers to the entry it pops, or faults. -/
theorem State.returnFromCall_cases (s : State) :
    (∃ t rest, s.callStack = t :: rest ∧ t.toNat < s.progLen ∧ s.returnFromCall = s.pop.jumpTo t) ∨
    (∃ t rest, s.callStack = t :: rest ∧ s.progLen ≤ t.toNat ∧ s.returnFromCall = s.raise .returnOutOfRange) ∨
    (s.callStack = [] ∧ s.returnFromCall = s.raise .stackUnderflow) := by
  unfold State.returnFromCall
  cases h : s.callStack with
  | nil => exact .inr (.inr ⟨rfl, rfl⟩)
  | cons t rest =>
    by_cases ht : t.toNat < s.progLen
    · exact .inl ⟨t, rest, rfl, ht, by simp [ht]⟩
    · exact .inr (.inl ⟨t, rest, rfl, by omega, by simp [ht]⟩)

/-- A gated transfer (42 R107 to R109) goes to its target or goes on. -/
theorem State.branch_cases (s : State) (b : Bool) (t : Nibble) :
    (b = true ∧ s.branch b t = s.jumpTo t) ∨ (b = false ∧ s.branch b t = s.next) := by
  cases b <;> simp [State.branch]

theorem endsWith_branch {i : Instr} {s : State} {b : Bool} (n : Nat) (t : Nibble)
    (hi : takesTransfer i s = b) :
    ∃ u, Undisturbed s u ∧ EndsWith i s u (.next (State.branch { s with draws := n } b t)) := by
  refine ⟨{ s with draws := n }, Undisturbed.draws s n, ?_⟩
  rcases State.branch_cases { s with draws := n } b t with ⟨hb, h⟩ | ⟨hb, h⟩
  · exact .inr (.inl ⟨hi.trans hb, t, congrArg _ h⟩)
  · exact .inl ⟨hi.trans hb, congrArg _ h⟩

theorem endsWith_call {i : Instr} {s : State} (n : Nat) (t : Nibble) (hi : takesTransfer i s = true) :
    ∃ u, Undisturbed s u ∧ EndsWith i s u (.next (State.callTo { s with draws := n } t)) := by
  rcases State.callTo_cases { s with draws := n } t with ⟨hl, h⟩ | ⟨_, h⟩
  · refine ⟨_, ?_, .inr (.inl ⟨hi, t, congrArg _ h⟩)⟩
    constructor <;> try simp
    exact fun _ => hl
  · exact ⟨_, Undisturbed.draws s n, .inr (.inr (.inl ⟨_, by decide, congrArg _ h⟩))⟩

theorem endsWith_ret (s : State) : ∃ u, Undisturbed s u ∧ EndsWith .ret s u (execRet s) := by
  rcases s.returnFromCall_cases with ⟨t, rest, hs, _, h⟩ | ⟨t, rest, hs, _, h⟩ | ⟨hs, h⟩
  · refine ⟨s.pop, ?_, .inr (.inl ⟨rfl, t, congrArg _ h⟩)⟩
    constructor <;> simp [hs]
    omega
  · exact ⟨s, Undisturbed.refl s, .inr (.inr (.inl ⟨_, by decide, congrArg _ h⟩))⟩
  · exact ⟨s, Undisturbed.refl s, .inr (.inr (.inl ⟨_, by decide, congrArg _ h⟩))⟩

theorem endsWith_iret (s : State) : ∃ u, Undisturbed s u ∧ EndsWith .iret s u (execIret s) := by
  unfold execIret
  split
  · refine ⟨{ s with
      carry := s.intr.savedCarry, zero := s.intr.savedZero, intr := { s.intr with inHandler := false } }, ?_,
      .inr (.inl ⟨rfl, s.intr.savedPc, rfl⟩)⟩
    constructor <;> simp
  · exact ⟨s, Undisturbed.refl s, .inr (.inr (.inl ⟨_, by decide, rfl⟩))⟩

theorem endsWith_irq (n : Nibble) (s : State) :
    ∃ u, Undisturbed s u ∧ EndsWith (.irq n) s u (execIrq n s) := by
  refine ⟨s.requestLine (lineOfImm n), ?_, .inl ⟨rfl, rfl⟩⟩
  constructor <;> simp

/-- Every instruction, in every state, ends in one of the four ways. -/
theorem exec_ends (i : Instr) (s : State) : ∃ u, Undisturbed s u ∧ EndsWith i s u (exec i s) := by
  cases i with
  | nop => exact ⟨_, .refl s, .inl ⟨rfl, rfl⟩⟩
  | addR ra rb => exact ⟨_, .aluStore s _ _ _ _ _, .inl ⟨rfl, rfl⟩⟩
  | addI ra imm => exact ⟨_, .aluStore s _ _ _ _ _, .inl ⟨rfl, rfl⟩⟩
  | subR ra rb => exact ⟨_, .aluStore s _ _ _ _ _, .inl ⟨rfl, rfl⟩⟩
  | subI ra imm => exact ⟨_, .aluStore s _ _ _ _ _, .inl ⟨rfl, rfl⟩⟩
  | mulR ra rb => exact ⟨_, .aluStore s _ _ _ _ _, .inl ⟨rfl, rfl⟩⟩
  | mulI ra imm => exact ⟨_, .aluStore s _ _ _ _ _, .inl ⟨rfl, rfl⟩⟩
  | andR ra rb => exact ⟨_, .aluStore s _ _ _ _ _, .inl ⟨rfl, rfl⟩⟩
  | andI ra imm => exact ⟨_, .aluStore s _ _ _ _ _, .inl ⟨rfl, rfl⟩⟩
  | orR ra rb => exact ⟨_, .aluStore s _ _ _ _ _, .inl ⟨rfl, rfl⟩⟩
  | orI ra imm => exact ⟨_, .aluStore s _ _ _ _ _, .inl ⟨rfl, rfl⟩⟩
  | xorR ra rb => exact ⟨_, .aluStore s _ _ _ _ _, .inl ⟨rfl, rfl⟩⟩
  | xorI ra imm => exact ⟨_, .aluStore s _ _ _ _ _, .inl ⟨rfl, rfl⟩⟩
  | cmpR ra rb => exact ⟨_, .aluCompare s _ _ _, .inl ⟨rfl, rfl⟩⟩
  | cmpI ra imm => exact ⟨_, .aluCompare s _ _ _, .inl ⟨rfl, rfl⟩⟩
  | movR ra rb => exact ⟨_, .writeReg s _ _ _ _, .inl ⟨rfl, rfl⟩⟩
  | movI ra imm => exact ⟨_, .writeReg s _ _ _ _, .inl ⟨rfl, rfl⟩⟩
  | loadR ra rb => exact ⟨_, .writeReg s _ _ _ _, .inl ⟨rfl, rfl⟩⟩
  | loadI ra imm => exact ⟨_, .writeReg s _ _ _ _, .inl ⟨rfl, rfl⟩⟩
  | storeR ra rb => exact ⟨_, .busWrite s _ _ _, .inl ⟨rfl, rfl⟩⟩
  | storeI ra imm => exact ⟨_, .busWrite s _ _ _, .inl ⟨rfl, rfl⟩⟩
  | jmpR rb => exact ⟨_, .draws s _, .inr (.inl ⟨rfl, _, rfl⟩)⟩
  | jmpI imm => exact ⟨_, .refl s, .inr (.inl ⟨rfl, _, rfl⟩)⟩
  | jzR rb => exact endsWith_branch (s.regDraws rb) (s.regValue rb) rfl
  | jzI imm => exact endsWith_branch s.draws imm rfl
  | jnzR rb => exact endsWith_branch (s.regDraws rb) (s.regValue rb) rfl
  | jnzI imm => exact endsWith_branch s.draws imm rfl
  | jcR rb => exact endsWith_branch (s.regDraws rb) (s.regValue rb) rfl
  | jcI imm => exact endsWith_branch s.draws imm rfl
  | callR rb => exact endsWith_call (s.regDraws rb) (s.regValue rb) rfl
  | callI imm => exact endsWith_call s.draws imm rfl
  | ret => exact endsWith_ret s
  | iret => exact endsWith_iret s
  | hlt => exact ⟨_, .refl s, .inr (.inr (.inr ⟨rfl, rfl⟩))⟩
  | irq n => exact endsWith_irq n s

end Sys2Proof.Machine
end

