-- ==== Sys2Proof/Laws/HostOps.lean ====
section
/-! SUPPORT. What the host's view of the core gives: the cell that an inspection or a save shows at a bus address, when a
persisted document is accepted, what a save writes, and what a load puts into ROM and RAM. -/

namespace Sys2Proof.Machine

/-- An address that is no port is decoded by the sizes of ROM and RAM alone (20_memory.md R43). -/
theorem busRegion_of_no_port (p : Params) (a : Nibble) (h1 : a ≠ p.keyStatus) (h2 : a ≠ p.keyData)
    (h3 : a ≠ p.charOut) :
    busRegion p a =
      if a.toNat < p.romSize then .rom a.toNat
      else if a.toNat < p.romSize + p.ramSize then .ram (a.toNat - p.romSize)
      else .unmapped := by
  unfold busRegion
  rw [if_neg h1, if_neg h2, if_neg h3]

/-- The cell shown at an address that decodes to ROM. -/
theorem State.peek_of_rom (s : State) (a : Nibble) (i : Nat) (h : busRegion s.cfg a = .rom i) :
    s.peek a = s.romCell i := by
  simp [State.peek, h]

/-- The cell shown at an address that decodes to RAM. -/
theorem State.peek_of_ram (s : State) (a : Nibble) (i : Nat) (h : busRegion s.cfg a = .ram i) :
    s.peek a = s.ramCell i := by
  simp [State.peek, h]

/-- Every other address shows 0000. -/
theorem State.peek_of_other (s : State) (a : Nibble) (hrom : ∀ i, busRegion s.cfg a ≠ .rom i)
    (hram : ∀ i, busRegion s.cfg a ≠ .ram i) : s.peek a = 0 := by
  unfold State.peek
  split
  · exact absurd ‹_› (hrom _)
  · exact absurd ‹_› (hram _)
  all_goals rfl

/-- When a document is accepted (70_reset_and_hazards.md R160, log 14): it has its four registers and sixteen memory
entries, its call stack fits, and every number is a nibble. -/
theorem Doc.accepted_iff (d : Doc) (p : Params) :
    d.accepted p = true ↔
      d.registers.length = 4 ∧ (∀ v ∈ d.registers, v < 16) ∧ d.pc < 16 ∧
        d.memory.length = 16 ∧ (∀ v ∈ d.memory, v < 16) ∧ (∀ v ∈ d.labels.map Prod.snd, v < 16) ∧
        d.callStack.length ≤ p.callDepth ∧ (∀ v ∈ d.callStack, v < 16) ∧
        d.irqMask < 16 ∧ d.irqStatus < 16 ∧ d.savedPc < 16 := by
  simp only [Doc.accepted, fitsNibble, Bool.and_eq_true, List.all_eq_true, decide_eq_true_eq, beq_iff_eq, and_assoc,
    List.mem_map, forall_exists_index, and_imp, forall_apply_eq_imp_iff₂]

/-- After a load, the ROM cell that an address names holds the document's entry for that address, among the entries
from address `n` on (70_reset_and_hazards.md R160). -/
theorem restoreRom_lookup (p : Params) (a : Nibble) (i : Nat) (ha : busRegion p a = .rom i) (vs : List Nat) (n : Nat)
    (m : Mem 4) (hn : n + vs.length ≤ 16) :
    (restoreRom p n vs m).lookup i =
      if n ≤ a.toNat ∧ a.toNat < n + vs.length then some (BitVec.ofNat 4 (vs.getD (a.toNat - n) 0))
      else m.lookup i := by
  induction vs generalizing n m with
  | nil => rw [if_neg (by simp)]; rfl
  | cons v vs ih =>
    rw [List.length_cons] at hn ⊢
    rw [restoreRom, ih _ _ (by omega)]
    by_cases hna : a.toNat = n
    · subst hna
      simp [ha, Mem.lookup_write_same]
    · have hk : ∀ k, busRegion p (BitVec.ofNat 4 n) = .rom k → i ≠ k := fun k hk h => by
        have h1 := (busRegion_rom hk).2
        have h2 := (busRegion_rom ha).2
        rw [BitVec.toNat_ofNat, Nat.mod_eq_of_lt (by omega)] at h1
        omega
      split_ifs with h1 h2 h2
      · rw [show a.toNat - n = a.toNat - (n + 1) + 1 by omega, List.getD_cons_succ]
      · omega
      · omega
      · split
        · rw [Mem.lookup_write_other _ _ _ _ (hk _ ‹_›)]
        all_goals rfl

/-- After a load, the RAM cell that an address names holds the document's entry for that address, among the entries
from address `n` on (70 R160). -/
theorem restoreRam_lookup (p : Params) (a : Nibble) (i : Nat) (ha : busRegion p a = .ram i) (vs : List Nat) (n : Nat)
    (m : Mem 4) (hn : n + vs.length ≤ 16) :
    (restoreRam p n vs m).lookup i =
      if n ≤ a.toNat ∧ a.toNat < n + vs.length then some (BitVec.ofNat 4 (vs.getD (a.toNat - n) 0))
      else m.lookup i := by
  induction vs generalizing n m with
  | nil => rw [if_neg (by simp)]; rfl
  | cons v vs ih =>
    rw [List.length_cons] at hn ⊢
    rw [restoreRam, ih _ _ (by omega)]
    by_cases hna : a.toNat = n
    · subst hna
      simp [ha, Mem.lookup_write_same]
    · have hk : ∀ k, busRegion p (BitVec.ofNat 4 n) = .ram k → i ≠ k := fun k hk h => by
        have h1 := (busRegion_ram hk).2
        have h2 := (busRegion_ram ha).2
        rw [BitVec.toNat_ofNat, Nat.mod_eq_of_lt (by omega)] at h1
        omega
      split_ifs with h1 h2 h2
      · rw [show a.toNat - n = a.toNat - (n + 1) + 1 by omega, List.getD_cons_succ]
      · omega
      · omega
      · split
        · rw [Mem.lookup_write_other _ _ _ _ (hk _ ‹_›)]
        all_goals rfl

/-- The record holds what is shown at each bus address (70 R159). -/
theorem State.persist_memory (s : State) (a : Nibble) : s.persist.memory[a.toNat]? = some (s.peek a).toNat := by
  have h : ∀ a : Nibble, busAddresses[a.toNat]? = some a := by decide
  simp [State.persist, h]

/-- A record of a core whose call stack fits is accepted. -/
theorem State.persist_accepted (s : State) (p : Params) (h : s.callStack.length ≤ p.callDepth) :
    s.persist.accepted p = true := by
  rw [Doc.accepted_iff]
  refine ⟨rfl, ?_, s.pc.isLt, rfl, ?_, ?_, by simpa [State.persist] using h, ?_, s.intr.mask.isLt, s.intr.status.isLt,
    s.intr.savedPc.isLt⟩
  all_goals
    intro v hv
    simp only [State.persist, List.mem_map, List.mem_cons, List.not_mem_nil, or_false, List.map_map,
      Function.comp] at hv
  · rcases hv with rfl | rfl | rfl | rfl <;> exact BitVec.isLt _
  all_goals
    obtain ⟨a, -, rfl⟩ := hv
    exact BitVec.isLt _

/-- The document at a path after another one, or that one, is written. -/
theorem findDoc_putDoc (fs : List (Text × Doc)) (path other : Text) (d : Doc) :
    findDoc (putDoc fs path d) other = if path = other then some d else findDoc fs other := by
  simp only [putDoc, findDoc]
  split_ifs with h
  · rfl
  · induction fs with
    | nil => rfl
    | cons e fs ih =>
      by_cases he : e.1 = path
      · simpa [he, findDoc, h] using ih
      · simp only [findDoc, List.filter_cons, beq_eq_false_iff_ne.2 he, Bool.not_false, if_true, ih]

/-- A save of the stopped core that can be written (70 R159). -/
theorem State.hostSave_of_stopped (s : State) (path : Text) (h : s.running = false) :
    s.hostSave path false = { s with files := putDoc s.files path s.persist, reply := .ok } := by
  simp [State.hostSave, h]

/-- A load of an accepted document on the stopped core (70 R160). -/
theorem State.hostLoadState_of_accepted (s : State) (path : Text) (d : Doc) (h : s.running = false)
    (hd : findDoc s.files path = some d) (ha : d.accepted s.cfg = true) :
    s.hostLoadState path = (s.restore d).answer .ok := by
  simp [State.hostLoadState, h, hd, ha]

end Sys2Proof.Machine
end

