-- ==== Sys2Proof/Laws/PerInstr.lean ====
section
/-! SUPPORT. Families of statements made for each instruction, one lemma per constructor of `Instr`. -/

namespace Sys2Proof.Laws.EncodesInRow

open Sys2Proof

/-- The word of an instruction that a word can carry lies in a row of the table, and that row builds the
instruction from the word's fields (30_encoding.md R74, R77). -/
def Statement (i : Instr) : Prop :=
  i.wellFormed = true → ∃ r ∈ encodingRows, r.covers (encode i) = true ∧
    r.build (raField (encode i)) (rbField (encode i)) (immField (encode i)) = i

theorem nop : Statement .nop := by
  unfold Statement
  decide

theorem addR (ra rb : Reg) : Statement (.addR ra rb) := by
  unfold Statement
  cases ra <;> cases rb <;> decide

theorem addI (ra : Reg) (imm : Nibble) : Statement (.addI ra imm) := by
  unfold Statement
  revert imm
  cases ra <;> decide

theorem subR (ra rb : Reg) : Statement (.subR ra rb) := by
  unfold Statement
  cases ra <;> cases rb <;> decide

theorem subI (ra : Reg) (imm : Nibble) : Statement (.subI ra imm) := by
  unfold Statement
  revert imm
  cases ra <;> decide

theorem mulR (ra rb : Reg) : Statement (.mulR ra rb) := by
  unfold Statement
  cases ra <;> cases rb <;> decide

theorem mulI (ra : Reg) (imm : Nibble) : Statement (.mulI ra imm) := by
  unfold Statement
  revert imm
  cases ra <;> decide

theorem andR (ra rb : Reg) : Statement (.andR ra rb) := by
  unfold Statement
  cases ra <;> cases rb <;> decide

theorem andI (ra : Reg) (imm : Nibble) : Statement (.andI ra imm) := by
  unfold Statement
  revert imm
  cases ra <;> decide

theorem orR (ra rb : Reg) : Statement (.orR ra rb) := by
  unfold Statement
  cases ra <;> cases rb <;> decide

theorem orI (ra : Reg) (imm : Nibble) : Statement (.orI ra imm) := by
  unfold Statement
  revert imm
  cases ra <;> decide

theorem xorR (ra rb : Reg) : Statement (.xorR ra rb) := by
  unfold Statement
  cases ra <;> cases rb <;> decide

theorem xorI (ra : Reg) (imm : Nibble) : Statement (.xorI ra imm) := by
  unfold Statement
  revert imm
  cases ra <;> decide

theorem cmpR (ra rb : Reg) : Statement (.cmpR ra rb) := by
  unfold Statement
  cases ra <;> cases rb <;> decide

theorem cmpI (ra : Reg) (imm : Nibble) : Statement (.cmpI ra imm) := by
  unfold Statement
  revert imm
  cases ra <;> decide

theorem movR (ra rb : Reg) : Statement (.movR ra rb) := by
  unfold Statement
  cases ra <;> cases rb <;> decide

theorem movI (ra : Reg) (imm : Nibble) : Statement (.movI ra imm) := by
  unfold Statement
  revert imm
  cases ra <;> decide

theorem loadR (ra rb : Reg) : Statement (.loadR ra rb) := by
  unfold Statement
  cases ra <;> cases rb <;> decide

theorem loadI (ra : Reg) (imm : Nibble) : Statement (.loadI ra imm) := by
  unfold Statement
  revert imm
  cases ra <;> decide

theorem storeR (ra rb : Reg) : Statement (.storeR ra rb) := by
  unfold Statement
  cases ra <;> cases rb <;> decide

theorem storeI (ra : Reg) (imm : Nibble) : Statement (.storeI ra imm) := by
  unfold Statement
  revert imm
  cases ra <;> decide

theorem jmpR (rb : Reg) : Statement (.jmpR rb) := by
  unfold Statement
  cases rb <;> decide

theorem jmpI (imm : Nibble) : Statement (.jmpI imm) := by
  unfold Statement
  revert imm
  decide

theorem jzR (rb : Reg) : Statement (.jzR rb) := by
  unfold Statement
  cases rb <;> decide

theorem jzI (imm : Nibble) : Statement (.jzI imm) := by
  unfold Statement
  revert imm
  decide

theorem jnzR (rb : Reg) : Statement (.jnzR rb) := by
  unfold Statement
  cases rb <;> decide

theorem jnzI (imm : Nibble) : Statement (.jnzI imm) := by
  unfold Statement
  revert imm
  decide

theorem jcR (rb : Reg) : Statement (.jcR rb) := by
  unfold Statement
  cases rb <;> decide

theorem jcI (imm : Nibble) : Statement (.jcI imm) := by
  unfold Statement
  revert imm
  decide

theorem callR (rb : Reg) : Statement (.callR rb) := by
  unfold Statement
  cases rb <;> decide

theorem callI (imm : Nibble) : Statement (.callI imm) := by
  unfold Statement
  revert imm
  decide

theorem ret : Statement .ret := by
  unfold Statement
  decide

theorem iret : Statement .iret := by
  unfold Statement
  decide

theorem hlt : Statement .hlt := by
  unfold Statement
  decide

theorem irq (n : Nibble) : Statement (.irq n) := by
  unfold Statement
  revert n
  decide

end Sys2Proof.Laws.EncodesInRow
end

