-- ==== Sys2Proof/Laws/Step.lean ====
section
/-! SUPPORT. What Step, Tick and the stages of the pipeline do, case by case, and what an instruction with a
destination does: the lemmas that proofs about whole transitions cite instead of unfolding `step`. -/

namespace Sys2Proof.Machine

/-- The precondition of a Tick (70_reset_and_hazards.md R143). -/
theorem State.canTick_iff (s : State) : s.canTick = true ↔ s.mayTick := by
  simp [State.canTick]

/-- The precondition of a Step (70 R141). -/
theorem State.canStep_iff (s : State) : s.canStep = true ↔ s.mayStep := by
  simp [State.canStep, State.latchesEmpty, and_assoc]

/-- A fetch depends on IMEM and PROG_LEN only. -/
theorem State.fetch_congr (s u : State) (a : Nibble) (hi : u.imem = s.imem) (hp : u.progLen = s.progLen) :
    u.fetch a = s.fetch a := by
  simp [State.fetch, State.imemWord, hi, hp]

/-- A fetch inside the program gives its word (20_memory.md R41). -/
theorem State.fetch_inside (s : State) (a : Nibble) (h : a.toNat < s.progLen) :
    s.fetch a = .word (s.imemWord a.toNat) := by
  simp [State.fetch, h]

/-- A fetch at or past the program's length gives END (20 R41). -/
theorem State.fetch_past (s : State) (a : Nibble) (h : s.progLen ≤ a.toNat) : s.fetch a = .endMark := by
  simp [State.fetch, Nat.not_lt.2 h]

/-- Settling changes no flag, so it changes no condition. -/
@[simp] theorem takesTransfer_settleTick (i : Instr) (s : State) :
    takesTransfer i s.settleTick = takesTransfer i s := by
  cases i <;> rfl

/-- Settling changes nothing that an interrupt depends on. -/
@[simp] theorem State.irqPending_settleTick (s : State) : s.settleTick.irqPending = s.irqPending := rfl

/-- A Step with an interrupt pending takes it (70 R141). -/
theorem stepOnce_of_irq (ex : Meaning) (s : State) (h : s.irqPending = true) :
    stepOnce ex s = .next s.settleTick.takeIrq := by
  simp [stepOnce, h]

/-- A Step with no interrupt pending performs what the word at `pc` decodes to (70 R141). -/
theorem stepOnce_of_no_irq (ex : Meaning) (s : State) (h : s.irqPending = false) :
    stepOnce ex s = perform ex (decodeFetched (s.fetch s.pc)) s.settleTick := by
  simp only [stepOnce, State.irqPending_settleTick, h]
  rfl

/-- A Tick with an interrupt pending takes it (70 R143, step 1). -/
theorem tick_of_irq (ex : Meaning) (s : State) (h : s.irqPending = true) :
    tick ex s = .next s.settleTick.takeIrq := by
  simp [tick, h]

/-- A Tick with X empty advances the stages (70 R143, steps 3 and 4). -/
theorem tick_of_empty (ex : Meaning) (s : State) (h : s.irqPending = false) (hx : s.executeL = none) :
    tick ex s = .next (s.settleTick.advanceStages s.settleTick.regs none) := by
  simp [tick, h, hx]

/-- A Tick with an entry in X executes it (70 R143, step 2). -/
theorem tick_of_entry (ex : Meaning) (s : State) (e : ExecuteEntry) (h : s.irqPending = false)
    (hx : s.executeL = some e) : tick ex s = executeStage ex e s.settleTick := by
  simp [tick, h, hx]

/-- With no event pending and the core running, the step is a Tick. -/
theorem step_of_run_loop (s : State) (he : s.events = []) (hc : s.canTick = true) :
    step s = tick exec s := by
  simp [step, advance, he, hc]

/-- With no event pending and the core not able to tick, nothing happens. -/
theorem step_of_idle (s : State) (he : s.events = []) (hc : s.canTick = false) : step s = .next s := by
  simp [step, advance, he, hc]

/-- With an event pending, the step performs the first one. -/
theorem step_of_event (s : State) (e : Event) (rest : List Event) (he : s.events = e :: rest) :
    step s = performEvent exec e { s with events := rest } := by
  simp [step, advance, he]

/-- A Tick of the run loop or of the host is a Tick from the state that `ticksFrom` names. -/
theorem step_of_ticksFrom (s b : State) (h : s.ticksFrom b) : step s = tick exec b := by
  obtain ⟨hc, ⟨he, rfl⟩ | ⟨rest, he, rfl⟩⟩ := h
  · exact step_of_run_loop b he (b.canTick_iff.2 hc)
  · rw [step_of_event s _ _ he]
    exact if_pos ((State.canTick_iff _).2 hc)

/-- The stages advance, or stall and change nothing. -/
theorem State.advanceStages_cases (s : State) (f : RegFile) (done : Option Decoded) :
    (stalls done s.decodeL = true ∧ s.advanceStages f done = s) ∨
    (stalls done s.decodeL = false ∧
      s.advanceStages f done =
        { s with
          executeL := s.decodeL.map (executeEntry f s.draws)
          decodeL := s.fetchL.map fun e => { pc := e.pc, insn := decodeFetched e.word }
          fetchL := some { pc := s.pc, word := s.fetch s.pc }
          pc := pcIncrement s.pc
          draws := promotionDraws f s.draws s.decodeL }) := by
  unfold State.advanceStages
  cases h : stalls done s.decodeL <;> simp

/-- An instruction with a destination writes that register, goes on, and transfers nowhere. -/
theorem exec_of_destination (i : Instr) (s : State) (r : Reg) (h : destination i = some r) :
    takesTransfer i s = false ∧
      ∃ u v, exec i s = .next u.next ∧ u.regs = s.regs.set r ⟨v, false⟩ ∧ u.intr = s.intr ∧ Undisturbed s u := by
  cases i <;> simp [destination] at h <;> subst h
  all_goals first
    | exact ⟨rfl, _, _, rfl, rfl, rfl, .aluStore _ _ _ _ _ _⟩
    | exact ⟨rfl, _, _, rfl, rfl, rfl, .writeReg _ _ _ _ _⟩

/-- A register that does not float is latched with its value when it is among the operands read. -/
theorem lookupOperand_readOperands (f : RegFile) (rs : List Reg) (n : Nat) (r : Reg) (hr : r ∈ rs)
    (h : (f.get r).floating = false) : lookupOperand (readOperands f rs n).1 r = some (f.get r).val := by
  induction rs generalizing n with
  | nil => cases hr
  | cons q rs ih =>
    simp only [readOperands, lookupOperand]
    split
    · subst_vars
      rw [(RegCell.read_of_settled _ _ h).1]
    · rename_i hne
      exact ih _ ((List.mem_cons.1 hr).resolve_left fun h => hne h.symm)

/-- Reading operands only adds to the free values drawn. -/
theorem readOperands_draws_le (f : RegFile) (rs : List Reg) (n : Nat) : n ≤ (readOperands f rs n).2 := by
  induction rs generalizing n with
  | nil => exact Nat.le_refl n
  | cons q rs ih => exact Nat.le_trans (Nat.le_add_right _ _) (ih _)

/-- A register that floats is latched with a free value drawn in that reading (10_state.md R19). -/
theorem lookupOperand_readOperands_floating (f : RegFile) (rs : List Reg) (n : Nat) (r : Reg) (hr : r ∈ rs)
    (h : (f.get r).floating = true) :
    ∃ k, n ≤ k ∧ k < (readOperands f rs n).2 ∧ lookupOperand (readOperands f rs n).1 r = some (Config.draw k) := by
  induction rs generalizing n with
  | nil => cases hr
  | cons q rs ih =>
    by_cases hq : q = r
    · subst hq
      refine ⟨n, Nat.le_refl n, ?_, by simp [readOperands, lookupOperand, RegCell.read, h]⟩
      exact Nat.lt_of_lt_of_le (by simp [RegCell.drawsAfter, h]) (readOperands_draws_le f rs _)
    · obtain ⟨k, h1, h2, h3⟩ := ih ((f.get q).drawsAfter n) ((List.mem_cons.1 hr).resolve_left fun h => hq h.symm)
      exact ⟨k, Nat.le_trans (Nat.le_add_right _ _) h1, h2, by simp [readOperands, lookupOperand, hq, h3]⟩

end Sys2Proof.Machine
end

