-- ==== Sys2Proof/Tests/Slice0.lean ====
section
/-! SUPPORT. The model's own tests. Words, operands and results come from spec/95_test_vectors.md, or are worked
out by hand from the rule a test names. The last part gives, for each statement that has hypotheses, a
concrete state and operands that meet them (`test_witness_…`). -/

namespace Sys2Proof.Tests

open Sys2Proof Sys2Proof.Machine

/-! The states the tests start from. -/

/-- Default parameters with SETTLE_TICKS = 0, so that no register floats. -/
def params : Params := { Config.params with settleTicks := 0 }

/-- A stopped core: r0 = 3, r1 = 5, r2 = 4, r3 = 9; the program of 95 section 8, P1, then `ret`, `nop`. -/
def board : State :=
  { State.reset with
    regs := { r0 := ⟨3, false⟩, r1 := ⟨5, false⟩, r2 := ⟨4, false⟩, r3 := ⟨9, false⟩ }
    settle := 0
    imem := [(0, 0x880F), (1, 0x8841), (2, 0x1010), (3, 0xF000), (4, 0xE000), (5, 0x0000)]
    progLen := 6
    rom := [(0, 7), (1, 8)]
    ram := [(0, 1), (1, 2), (9, 6)]
    cfg := params }

/-- The board with other values in r0 and r1. -/
def boardWith (a b : Nibble) : State := { board with regs := { board.regs with r0 := ⟨a, false⟩, r1 := ⟨b, false⟩ } }

/-- The board running, its latches as 95 section 7, T1, has them after tick 3. -/
def rolling : State :=
  { board with
    running := true
    pc := 3
    fetchL := some { pc := 2, word := .word 0x1010 }
    decodeL := some { pc := 1, insn := .insn (.movI .r1 1) }
    executeL := some { pc := 0, insn := .insn (.movI .r0 15), ops := [] } }

/-- T1 after tick 4: `mov r1 1` in X, `add r0 r1` in D. -/
def hazard : State :=
  { rolling with
    pc := 4
    fetchL := some { pc := 3, word := .word 0xF000 }
    decodeL := some { pc := 2, insn := .insn (.addR .r0 .r1) }
    executeL := some { pc := 1, insn := .insn (.movI .r1 1), ops := [] } }

/-- Lines 1 and 3 requested and unmasked, interrupts enabled (95 section 6). -/
def armed : InterruptState :=
  { mask := 0b1010, status := 0b1010, enabled := true, inHandler := false
    savedPc := 0, savedCarry := false, savedZero := false }

/-- In a handler, with savedPC = 3 and savedFlags = (C = 1, Z = 0) (95 section 6). -/
def inHandler : InterruptState :=
  { mask := 0b0010, status := 0, enabled := true, inHandler := true
    savedPc := 3, savedCarry := true, savedZero := false }

/-- What a test looks at in the next state, if there is one. -/
def seen {α : Type} (f : State → α) : Host.Outcome State Fault Refusal → Option α
  | .next t => some (f t)
  | .fault _ => none
  | .refused _ => none

/-! Well-formed instructions (30_encoding.md R70). -/

theorem test_irq_4_is_ill_formed : (Instr.irq 4).wellFormed = false := by decide
theorem test_irq_15_is_ill_formed : (Instr.irq 15).wellFormed = false := by decide
theorem test_irq_3_is_well_formed : (Instr.irq 3).wellFormed = true := by decide

/-! Decoding: each word is written out from the fields `oooo m fff aa bb iiii` of 30_encoding.md R69. -/

theorem test_decode_nop : decode 0b0000000000000000 = .insn .nop := by decide
theorem test_decode_add_r : decode 0b0001000000010000 = .insn (.addR .r0 .r1) := by decide
theorem test_decode_add_i : decode 0b0001100010001001 = .insn (.addI .r2 9) := by decide
theorem test_decode_sub_r : decode 0b0010000011010000 = .insn (.subR .r3 .r1) := by decide
theorem test_decode_sub_i : decode 0b0010100000000001 = .insn (.subI .r0 1) := by decide
theorem test_decode_mul_r : decode 0b0011000001100000 = .insn (.mulR .r1 .r2) := by decide
theorem test_decode_mul_i : decode 0b0011100010000100 = .insn (.mulI .r2 4) := by decide
theorem test_decode_and_r : decode 0b0100000000110000 = .insn (.andR .r0 .r3) := by decide
theorem test_decode_and_i : decode 0b0100100011000110 = .insn (.andI .r3 6) := by decide
theorem test_decode_or_r : decode 0b0101000010010000 = .insn (.orR .r2 .r1) := by decide
theorem test_decode_or_i : decode 0b0101100001000110 = .insn (.orI .r1 6) := by decide
theorem test_decode_xor_r : decode 0b0110000001000000 = .insn (.xorR .r1 .r0) := by decide
theorem test_decode_xor_i : decode 0b0110100000001111 = .insn (.xorI .r0 15) := by decide
theorem test_decode_cmp_r : decode 0b0111000000010000 = .insn (.cmpR .r0 .r1) := by decide
theorem test_decode_cmp_i : decode 0b0111100000000010 = .insn (.cmpI .r0 2) := by decide
theorem test_decode_mov_r : decode 0b1000000010110000 = .insn (.movR .r2 .r3) := by decide
theorem test_decode_mov_i : decode 0b1000100011000010 = .insn (.movI .r3 2) := by decide
theorem test_decode_load_r : decode 0b1001000000010000 = .insn (.loadR .r0 .r1) := by decide
theorem test_decode_load_i : decode 0b1001100001000010 = .insn (.loadI .r1 2) := by decide
theorem test_decode_store_r : decode 0b1010000000010000 = .insn (.storeR .r0 .r1) := by decide
theorem test_decode_store_i : decode 0b1010100001001111 = .insn (.storeI .r1 15) := by decide
theorem test_decode_jmp_r : decode 0b1011000000110000 = .insn (.jmpR .r3) := by decide
theorem test_decode_jmp_i : decode 0b1011100000000101 = .insn (.jmpI 5) := by decide
theorem test_decode_jz_r : decode 0b1100000000100000 = .insn (.jzR .r2) := by decide
theorem test_decode_jz_i : decode 0b1100100000000011 = .insn (.jzI 3) := by decide
theorem test_decode_jnz_r : decode 0b1100000100010000 = .insn (.jnzR .r1) := by decide
theorem test_decode_jnz_i : decode 0b1100100100000010 = .insn (.jnzI 2) := by decide
theorem test_decode_jc_r : decode 0b1100001000110000 = .insn (.jcR .r3) := by decide
theorem test_decode_jc_i : decode 0b1100101000001000 = .insn (.jcI 8) := by decide
theorem test_decode_call_r : decode 0b1101000000010000 = .insn (.callR .r1) := by decide
theorem test_decode_call_i : decode 0b1101100000000100 = .insn (.callI 4) := by decide
theorem test_decode_ret : decode 0b1110000000000000 = .insn .ret := by decide
theorem test_decode_iret : decode 0b1110000100000000 = .insn .iret := by decide
theorem test_decode_hlt : decode 0b1111000000000000 = .insn .hlt := by decide
theorem test_decode_irq : decode 0b1111000100000011 = .insn (.irq 3) := by decide

/-! 95 section 2, "Decode of single words". -/

theorem test_decode_illegal_operands :
    decode 0x0001 = .illegal 0x0001 ∧
      decode 0x1011 = .illegal 0x1011 ∧
      decode 0x1810 = .illegal 0x1810 ∧
      decode 0xB040 = .illegal 0xB040 ∧
      decode 0xD830 = .illegal 0xD830 := by decide
theorem test_decode_illegal_functions :
    decode 0xC300 = .illegal 0xC300 ∧
      decode 0xE001 = .illegal 0xE001 ∧
      decode 0xE200 = .illegal 0xE200 ∧
      decode 0xF104 = .illegal 0xF104 ∧
      decode 0xFFFF = .illegal 0xFFFF := by decide

theorem test_table_word : decodeTableWord 16 0xC902 = some (.jnzI 2) := by decide
theorem test_table_word_illegal : decodeTableWord 16 0xC300 = none := by decide

/-! Results of single instructions (95 sections 3 to 6). -/

/-- What an ALU test looks at: the destination r0, C and Z. -/
def aluSeen (t : State) : Nibble × Bool × Bool := (t.regs.r0.val, t.carry, t.zero)

theorem test_add_wraps_to_zero : seen aluSeen (exec (.addR .r0 .r1) (boardWith 15 1)) = some (0, true, true) := by decide
theorem test_add_same_register : seen aluSeen (exec (.addR .r0 .r0) (boardWith 8 0)) = some (0, true, true) := by decide
theorem test_add_immediate : seen aluSeen (exec (.addI .r0 8) (boardWith 7 0)) = some (15, false, false) := by decide
theorem test_sub_borrows : seen aluSeen (exec (.subR .r0 .r1) (boardWith 3 5)) = some (14, true, false) := by decide
theorem test_sub_immediate : seen aluSeen (exec (.subI .r0 7) (boardWith 7 0)) = some (0, false, true) := by decide
theorem test_mul_product_16 : seen aluSeen (exec (.mulR .r0 .r1) (boardWith 4 4)) = some (0, true, false) := by decide
theorem test_mul_immediate : seen aluSeen (exec (.mulI .r0 15) (boardWith 15 0)) = some (1, true, false) := by decide
theorem test_and : seen aluSeen (exec (.andR .r0 .r1) (boardWith 12 10)) = some (8, false, false) := by decide
theorem test_and_immediate_clears_c :
    seen aluSeen (exec (.andI .r0 0) { boardWith 15 0 with carry := true }) = some (0, false, true) := by decide
theorem test_or : seen aluSeen (exec (.orR .r0 .r1) (boardWith 8 1)) = some (9, false, false) := by decide
theorem test_or_immediate : seen aluSeen (exec (.orI .r0 10) (boardWith 5 0)) = some (15, false, false) := by decide
theorem test_xor : seen aluSeen (exec (.xorR .r0 .r1) (boardWith 12 10)) = some (6, false, false) := by decide
theorem test_xor_immediate : seen aluSeen (exec (.xorI .r0 9) (boardWith 9 0)) = some (0, false, true) := by decide
theorem test_cmp_less : seen aluSeen (exec (.cmpR .r0 .r1) (boardWith 3 5)) = some (3, true, false) := by decide
theorem test_cmp_immediate_equal : seen aluSeen (exec (.cmpI .r0 7) (boardWith 7 0)) = some (7, false, true) := by decide

/-- 10_state.md R34: an ALU instruction loads the latches, a compare leaves them as they were. -/
theorem test_alu_latches :
    seen (fun t => (t.aluA, t.aluB, t.aluOp))
        (exec (.cmpR .r0 .r2) { board with aluA := 1, aluB := 2, aluOp := .xor }) = some (1, 2, .xor) ∧
      seen (fun t => (t.aluA, t.aluB, t.aluOp)) (exec (.mulI .r2 6) board) = some (4, 6, .mul) := by decide

theorem test_mov_keeps_flags :
    seen aluSeen (exec (.movI .r0 0) { board with carry := true, zero := true }) = some (0, true, true) := by decide
/-- 41 R99: `mov rA rA` of a floating register writes the value the read drew. -/
theorem test_mov_of_floating :
    seen (fun t => t.regs.r0) (exec (.movR .r0 .r0) { board with regs := { board.regs with r0 := ⟨9, true⟩ } }) =
      some ⟨Config.draw board.draws, false⟩ := rfl
theorem test_load_uses_old_address :
    seen (fun t => t.regs.r1.val) (exec (.loadR .r1 .r1) (boardWith 0 2)) = some 1 := by decide
theorem test_load_key_data_consumes :
    seen (fun t => (t.regs.r1.val, t.keys)) (exec (.loadI .r1 14) { board with keys := [7, 2] }) =
      some (7, [2]) := by decide
theorem test_store_to_ram :
    seen (fun t => (t.peek 3, t.peek 2)) (exec (.storeR .r0 .r1) (boardWith 7 3)) = some (7, 1) := by decide
theorem test_store_to_terminal :
    seen (fun t => (t.display, t.ram)) (exec (.storeI .r1 15) (boardWith 0 7)) = some ([7], board.ram) := by decide
theorem test_store_to_rom_ignored :
    seen (fun t => (t.rom, t.ram, t.fault)) (exec (.storeI .r0 1) board) = some (board.rom, board.ram, .none) := by
  decide

theorem test_jmp_register : seen State.pc (exec (.jmpR .r3) board) = some 9 := by decide
theorem test_jmp_absolute : seen State.pc (exec (.jmpI 5) board) = some 5 := by decide
theorem test_jz_taken : seen State.pc (exec (.jzI 0) { board with pc := 3, zero := true }) = some 0 := by decide
theorem test_jz_register_not_taken : seen State.pc (exec (.jzR .r2) { board with pc := 3 }) = some 4 := by decide
theorem test_jnz_not_taken : seen State.pc (exec (.jnzI 2) { board with pc := 4, zero := true }) = some 5 := by decide
theorem test_jnz_register_taken : seen State.pc (exec (.jnzR .r2) { board with pc := 7 }) = some 4 := by decide
theorem test_jc_taken : seen State.pc (exec (.jcI 8) { board with carry := true }) = some 8 := by decide
theorem test_jc_register_not_taken : seen State.pc (exec (.jcR .r2) { board with pc := 6 }) = some 7 := by decide
theorem test_call_wraps_return_address :
    seen (fun t => (t.pc, t.callStack)) (exec (.callI 0) { board with pc := 15 }) = some (0, [0]) := by decide
theorem test_call_register_overflow :
    seen (fun t => (t.fault, t.faultPc, t.callStack.length))
        (exec (.callR .r0) { board with pc := 2, callStack := List.replicate 16 0 }) =
      some (.stackOverflow, 2, 16) := by decide
theorem test_ret_out_of_range :
    seen (fun t => (t.fault, t.faultPc, t.callStack)) (exec .ret { board with pc := 1, progLen := 3, callStack := [3] }) =
      some (.returnOutOfRange, 1, [3]) := by decide
theorem test_ret_underflow : seen (fun t => (t.fault, t.running)) (exec .ret board) = some (.stackUnderflow, false) := by
  decide
theorem test_iret_restores :
    seen (fun t => (t.pc, t.carry, t.zero, t.intr.inHandler)) (exec .iret { board with intr := inHandler }) =
      some (3, true, false, false) := by decide
theorem test_iret_outside_handler : seen State.fault (exec .iret board) = some .iretOutsideHandler := by decide
theorem test_irq_2 : seen (fun t => (t.intr.status, t.pc)) (exec (.irq 2) board) = some (0b0100, 1) := by decide
theorem test_hlt : seen (fun t => (t.running, t.pc)) (exec .hlt { board with pc := 3 }) = some (false, 3) := by decide
theorem test_nop : seen State.pc (exec .nop { board with pc := 15 }) = some 0 := by decide

/-! Steps and ticks (95 sections 6 and 7). -/

/-- The word placed at `pc` is the one the next step runs, from the state right after reset. -/
theorem test_reset_runs_placed_word :
    seen (fun t => (t.regs.r3, t.pc)) (step (State.reset.withFetchWord 16 0x88C2)) = some (⟨2, false⟩, 1) := rfl
theorem test_step_unknown_opcode :
    seen (fun t => (t.fault, t.faultPc, t.pc)) (step (board.withFetchWord 16 0x0001)) =
      some (.unknownOpcode, 0, 0) := by decide
/-- T1, tick 4: `mov r0 1111` executes; X:1, D:2, F:3, pc 4. -/
theorem test_tick_advances :
    seen (fun t => (t.regs.r0.val, t.pc, t.executeL.map (·.pc), t.decodeL.map (·.pc), t.fetchL.map (·.pc)))
      (step rolling) = some (15, 4, some 1, some 2, some 3) := by decide
/-- T1, tick 5: `mov r1 0001` executes, then a stall. -/
theorem test_tick_stalls :
    seen (fun t => (t.regs.r1.val, t.pc, t.executeL.map (·.pc), t.decodeL.map (·.pc), t.fetchL.map (·.pc)))
      (step hazard) = some (1, 4, none, some 2, some 3) := by decide
/-- Lines 1 and 3 armed: line 1 is taken, and the oldest address is X's (60 R125, R126). -/
theorem test_tick_takes_lowest_line :
    seen (fun t => (t.pc, t.intr.status, t.intr.savedPc, t.executeL)) (step { rolling with intr := armed }) =
      some (4, 0b1000, 0, none) := by decide
/-- T5: a stop leaves `pc` at the oldest unexecuted address. -/
theorem test_stop_is_precise :
    seen (fun t => (t.pc, t.running, t.fetchL)) (step { hazard with events := [.stop] }) = some (1, false, none) := by
  decide

/-! The text form (95 section 2). -/

/-- The words of a text, or its error. -/
def wordsOfText (t : Text) : Except AsmError (List Word) :=
  match assemble t with
  | .ok p => .ok p.words
  | .error e => .error e

theorem test_assemble_literals :
    wordsOfText "mov r0 1111 | mov r0 0x0F | mov r0 15 | mov r0 10 | mov r0 0101".toList =
      .ok [0x880F, 0x880F, 0x880F, 0x880A, 0x8805] := rfl
theorem test_assemble_labels :
    wordsOfText "mov r0 3 ; count\nnop | loop: sub r0 1\njnz @loop\njmp loop".toList =
      .ok [0x8803, 0x0000, 0x2801, 0xC902, 0xB802] := rfl
theorem test_assemble_out_of_range : wordsOfText "mov r0 100".toList = .error (.parse .outOfRange) := rfl
theorem test_assemble_unknown_register : wordsOfText "mov r4 1".toList = .error (.parse .unknownRegister) := rfl
theorem test_assemble_undefined_label :
    wordsOfText "jmp nowhere".toList = .error (.resolution "nowhere".toList) := rfl
theorem test_assemble_wrong_position : wordsOfText "load [2] r0".toList = .error (.parse .wrongPosition) := rfl
theorem test_format_load : format (.loadI .r1 2) = "load r1 [0010]".toList := rfl
theorem test_format_irq : format (.irq 1) = "irq 1".toList := rfl

/-! Witnesses: for each statement with hypotheses, a state and operands that meet them. -/

theorem test_witness_DecodeOfEncode : (Instr.irq 3).wellFormed = true ∧ (Instr.movI .r3 15).wellFormed = true := by
  decide
theorem test_witness_EncodeOfIrq : (0 : Nibble).toNat < 4 ∧ (3 : Nibble).toNat < 4 := by decide
theorem test_witness_EncodeOfDecode : decode 0xC902 = .insn (.jnzI 2) ∧ decode 0xF103 = .insn (.irq 3) := by decide
theorem test_witness_AssembleOfFormat :
    decode 0x9842 = .insn (.loadI .r1 2) ∧ assemble (format (.loadI .r1 2)) = .ok ⟨[0x9842], []⟩ := ⟨by decide, rfl⟩

theorem test_witness_CmpResult :
    board.executeL = none ∧ (board.regs.get .r0).floating = false ∧ (board.regs.get .r1).floating = false ∧
      ∃ t u, exec (.cmpR .r0 .r1) board = .next t ∧ exec (.cmpR .r0 .r1) t = .next u ∧ u.carry = true :=
  ⟨by decide, by decide, by decide, _, _, rfl, rfl, by decide⟩

/-- A register that floats, and one that does not. -/
def afloat : State := { board with regs := { board.regs with r0 := ⟨9, true⟩, r1 := ⟨8, true⟩ }, settle := 2 }

theorem test_witness_RegisterReadValue :
    (∃ e, { rolling with executeL := some ⟨0, .insn (.addI .r0 1), [(.r0, 6)]⟩ }.executeL = some e ∧
      lookupOperand e.ops .r0 = some 6) ∧
    (afloat.executeL = none ∧ (afloat.regs.get .r2).floating = false) ∧
    (afloat.executeL = none ∧ Reg.r0 ≠ Reg.r1 ∧ (afloat.regs.get .r0).floating = true ∧
      (afloat.regs.get .r1).floating = true) := ⟨⟨_, rfl, by decide⟩, by decide, by decide⟩
/-- The second of two operands: latched, settled, and floating after one that is settled. -/
theorem test_witness_SecondOperand :
    (∃ e, { rolling with executeL := some ⟨0, .insn (.addR .r0 .r1), [(.r0, 6), (.r1, 2)]⟩ }.executeL = some e ∧
      lookupOperand e.ops .r1 = some 2) ∧ Reg.r0 ≠ Reg.r1 ∧
    (afloat.executeL = none ∧ Reg.r0 ≠ Reg.r2 ∧ (afloat.regs.get .r2).floating = false) ∧
    (Reg.r2 ≠ Reg.r0 ∧ (afloat.regs.get .r0).floating = true) := ⟨⟨_, rfl, by decide⟩, by decide⟩
theorem test_witness_RegisterWrite : Reg.r1 ≠ Reg.r0 ∧ (board.writeReg .r0 15).regs.get .r1 = ⟨5, false⟩ := by decide
theorem test_witness_SettlingEndsFloating :
    { afloat with settle := 1 }.settle ≤ 1 ∧ board.settle ≤ 1 ∧ 1 < afloat.settle := by decide
theorem test_witness_OnlyTheDestinationRegisterChanges :
    (∃ t, exec (.addR .r0 .r1) board = .next t) ∧ destination (.addR .r0 .r1) ≠ some .r1 := ⟨⟨_, rfl⟩, by decide⟩
/-- A register file that differs from the board's outside the sources of `add r0 r1`. -/
theorem test_witness_ReadsItsSourcesOnly :
    let f : RegFile := { board.regs with r2 := ⟨15, true⟩, r3 := ⟨0, false⟩ }
    (∀ r ∈ sources (.addR .r0 .r1), f.get r = board.regs.get r) ∧ f ≠ board.regs ∧
      destination (.addR .r0 .r1) = some .r0 := by decide

/-- Bus addresses at the ends of each region of the default map (20 R54). -/
theorem test_witness_BusWriteByAddress :
    board.cfg.valid = true ∧ busRegion board.cfg 0 = .rom 0 ∧ busRegion board.cfg 1 = .rom 1 ∧
      busRegion board.cfg 2 = .ram 0 ∧ busRegion board.cfg 11 = .ram 9 ∧ busRegion board.cfg 12 = .unmapped ∧
      busRegion board.cfg 13 = .keyStatus ∧ busRegion board.cfg 14 = .keyData ∧ busRegion board.cfg 15 = .charOut := by
  decide
theorem test_witness_StoreResult : board.pairSecond .r0 .r2 = 4 ∧ (2 : Nibble) ≠ 4 ∧ (2 : Nibble) ≠ 3 := by decide
/-- Both ends of the RAM, by the direct forms and by the register forms (r2 = 4, r3 = 9). -/
theorem test_witness_LoadAfterStore :
    busRegion board.cfg 2 = .ram 0 ∧ busRegion board.cfg 11 = .ram 9 ∧
    (board.pairSecond .r0 .r3 = 9 ∧ busRegion board.cfg 9 = .ram 7 ∧
      ∃ t, exec (.storeR .r0 .r3) board = .next t ∧ t.regValue .r3 = 9) :=
  ⟨by decide, by decide, by decide, by decide, _, rfl, by decide⟩
theorem test_witness_KeyStatusThenKeyData : board.cfg.keyStatus ≠ board.cfg.keyData := by decide

theorem test_witness_OnlyLoadAndStoreReachTheBus :
    (∃ t, exec (.loadI .r0 14) { board with keys := [7] } = .next t ∧ t.keys ≠ [7]) ∧
    (∃ t, exec (.storeI .r0 15) board = .next t ∧ t.display ≠ board.display) :=
  ⟨⟨_, rfl, by decide⟩, ⟨_, rfl, by decide⟩⟩

theorem test_witness_RetResult :
    ({ board with callStack := [5, 1] }.callStack = 5 :: [1] ∧ (5 : Nibble).toNat < board.progLen) ∧
    ({ board with callStack := [6] }.callStack = 6 :: [] ∧ board.progLen ≤ (6 : Nibble).toNat) ∧
    board.callStack = [] := by decide
theorem test_witness_RetComesBackFromCall :
    board.executeL = none ∧ board.callStack.length < board.cfg.callDepth ∧ (board.pc + 1).toNat < board.progLen ∧
      board.regValue .r2 = 4 := by decide
theorem test_witness_IrqSetsItsStatusBit : (Instr.irq 0).wellFormed = true ∧ (Instr.irq 3).wellFormed = true := by decide
theorem test_witness_Iret :
    { board with intr := inHandler }.intr.inHandler = true ∧ board.intr.inHandler = false := by decide
theorem test_witness_OnlyCallRetIretFault :
    board.fault = .none ∧ ∃ t, exec .ret board = .next t ∧ t.fault ≠ .none := ⟨by decide, _, rfl, by decide⟩
theorem test_witness_FlagsChange :
    (∃ t, exec (.loadI .r0 2) board = .next t) ∧
    (Instr.loadI .r0 2).kind ∉ [.add, .sub, .mul, .and, .or, .xor, .cmp, .iret] ∧
    { board with intr := inHandler }.intr.inHandler = true ∧ board.intr.inHandler = false ∧
    (∃ t, perform exec .endMark board = .next t) :=
  ⟨⟨_, rfl⟩, by decide, rfl, rfl, ⟨_, rfl⟩⟩
theorem test_witness_NoInstructionWrites : ∃ t, exec (.storeI .r0 2) board = .next t := ⟨_, rfl⟩

theorem test_witness_InterruptEntry :
    { board with intr := armed }.irqPending = true ∧ { rolling with intr := armed }.irqPending = true := by decide
/-- Each line of R126's list, X's address, D's, F's and the pc being four different ones. -/
theorem test_oldest_pc :
    rolling.oldestPc = 0 ∧ { rolling with executeL := none }.oldestPc = 1 ∧
      { rolling with executeL := none, decodeL := none }.oldestPc = 2 ∧
      { rolling with executeL := none, decodeL := none, fetchL := none }.oldestPc = 3 := by decide
/-- A pending interrupt with only F full saves F's address (60 R126). -/
theorem test_tick_interrupt_saves_fetch_address :
    seen (fun t => t.intr.savedPc) (step { rolling with executeL := none, decodeL := none, intr := armed }) =
      some 2 := by decide
theorem test_witness_OwnPc :
    (∃ x, rolling.executeL = some x ∧ x.pc = 0) ∧ rolling.pc = 3 ∧ board.executeL = none := ⟨⟨_, rfl, rfl⟩, rfl, rfl⟩
theorem test_witness_PendingInterruptIsTakenFirst :
    ({ board with intr := armed, events := [.step] }.mayStep ∧
      { board with intr := armed, events := [.step] }.irqPending = true) ∧
    ({ rolling with intr := armed, events := [.tick] }.mayTick ∧
      { rolling with intr := armed, events := [.tick] }.irqPending = true) ∧
    (rolling.events = [] ∧ { rolling with intr := armed }.mayTick) ∧
    ({ board with intr := armed, events := [.direct .nop] }.mayStep ∧ Instr.nop.wellFormed = true) := by decide

theorem test_witness_StepRuns :
    board.running = false ∧ board.fault = .none ∧ board.fetchL = none ∧ board.decodeL = none ∧
      board.executeL = none ∧ board.irqPending = false ∧ board.pc.toNat < board.progLen ∧
      decode (board.imemWord board.pc.toNat) = .insn (.movI .r0 15) := by decide
theorem test_witness_EndHaltsAndIllegalWordFaults :
    (board.mayStep ∧ board.irqPending = false ∧ { board with pc := 6 }.progLen ≤ (6 : Nibble).toNat) ∧
    ({ board with imem := [(0, 0xC300)] }.pc.toNat < board.progLen ∧
      decode ({ board with imem := [(0, 0xC300)] }.imemWord 0) = .illegal 0xC300) := by decide
theorem test_witness_TickExecutes :
    rolling.mayTick ∧ rolling.irqPending = false ∧
      (∃ x, rolling.executeL = some x ∧ x.insn = .insn (.movI .r0 15)) ∧
      (∃ t, exec (.movI .r0 15) rolling.settleTick = .next t ∧ t.running = true) ∧
      takesTransfer (.movI .r0 15) rolling = false ∧ takesTransfer (.jmpI 2) rolling = true ∧
      (∃ t, exec .hlt rolling.settleTick = .next t ∧ t.running = false) :=
  ⟨by decide, by decide, ⟨_, rfl, rfl⟩, ⟨_, rfl, rfl⟩, rfl, rfl, ⟨_, rfl, rfl⟩⟩
/-- A Tick of the run loop, and a Tick of the host. -/
theorem test_witness_TicksFrom :
    rolling.ticksFrom rolling ∧ { rolling with events := [.tick, .stop] }.ticksFrom
      { rolling with events := [.stop], reply := .ok } :=
  ⟨⟨by decide, .inl ⟨rfl, rfl⟩⟩, ⟨by decide, .inr ⟨_, rfl, rfl⟩⟩⟩
/-- END in X stops the core at its address, an illegal word faults there (43 R116, R117). -/
theorem test_tick_end_and_illegal_word :
    seen (fun t => (t.running, t.pc, t.fault)) (step { rolling with executeL := some ⟨6, .endMark, []⟩ }) =
      some (false, 6, .none) ∧
    seen (fun t => (t.fault, t.faultPc, t.pc))
        (step { rolling with executeL := some ⟨5, .illegal 1, []⟩, events := [.tick] }) =
      some (.unknownOpcode, 5, 5) := by decide
/-- In `rolling` nothing stalls; in `hazard` D reads what X writes. -/
theorem test_witness_TickAdvancesOrStalls :
    (∀ r, destination (.movI .r0 15) = some r → r ∉ entrySources (.insn (.movI .r1 1))) ∧
      rolling.decodeL = some ⟨1, .insn (.movI .r1 1)⟩ ∧ rolling.running = true ∧
    (hazard.decodeL = some ⟨2, .insn (.addR .r0 .r1)⟩ ∧ destination (.movI .r1 1) = some .r1 ∧
      Reg.r1 ∈ entrySources (.insn (.addR .r0 .r1))) :=
  ⟨fun _ _ => by simp [entrySources, sources], rfl, rfl, rfl, rfl, by decide⟩
theorem test_witness_HazardHolds :
    hazard.events = [] ∧ hazard.mayTick ∧ hazard.irqPending = false ∧ destination (.movI .r1 1) = some .r1 ∧
      (∃ x, hazard.executeL = some x ∧ x.insn = .insn (.movI .r1 1)) ∧
      (∃ d, hazard.decodeL = some d ∧ Reg.r1 ∈ entrySources d.insn) :=
  ⟨rfl, by decide, by decide, rfl, ⟨_, rfl, rfl⟩, ⟨_, rfl, by decide⟩⟩
theorem test_witness_FillingTick :
    { rolling with executeL := none }.ticksFrom { rolling with executeL := none } ∧
      { rolling with executeL := none }.irqPending = false ∧
    { rolling with executeL := none, events := [.tick] }.ticksFrom { rolling with executeL := none, reply := .ok } :=
  ⟨⟨by decide, .inl ⟨rfl, rfl⟩⟩, by decide, ⟨by decide, .inr ⟨_, rfl, rfl⟩⟩⟩
theorem test_witness_FourTicks :
    { board with running := true }.events = [] ∧ { board with running := true }.fault = .none ∧
      { board with running := true }.settle = 0 ∧ { board with running := true }.irqPending = false ∧
      board.fetchL = none ∧ board.decodeL = none ∧ board.executeL = none := by decide

/-- A state with all three latches full meets the invariant, and has a next state. -/
theorem test_witness_EveryStepKeepsTheInvariant : rolling.Inv ∧ ∃ t, step rolling = .next t := by
  refine ⟨?_, _, rfl⟩
  constructor
  case fetch_pc => rintro f hf; cases hf; rfl
  case decode_pc => rintro d f hd hf; cases hd; cases hf; rfl
  case execute_pc => rintro x d hx hd; cases hx; cases hd; rfl
  case fetch_word => rintro f hf; cases hf; rfl
  case decode_insn => rintro d hd; cases hd; decide
  case execute_insn => rintro x hx; cases hx; decide
  case execute_ops => rintro x hx; cases hx; rfl
  case settled => intro _ r; cases r <;> rfl
  all_goals decide

/-- No word, two words, sixteen words; then each reason for the host-level error, at its boundary. -/
theorem test_witness_LoadOperations :
    (board.running = false ∧ ([] : List Word).length ≤ 16 ∧ (List.replicate 16 (0 : Word)).length ≤ 16) ∧
    (rolling.running = true ∧ 16 < 17 ∧ (List.replicate 17 (0 : Word)).length = 17 ∧ [(0 : Word)].length ≠ 2) ∧
    [(7 : Nibble), 8].length = board.cfg.romSize ∧
    ([(7 : Nibble)].length ≠ board.cfg.romSize ∧ [(7 : Nibble), 8, 9].length ≠ board.cfg.romSize) := by decide
/-- A text with a label that assembles, to words and a label table; one that does not; the empty text. -/
theorem test_witness_LoadText :
    assemble "loop: sub r0 1\njnz @loop".toList = .ok ⟨[0x2801, 0xC900], [("loop".toList, 0)]⟩ ∧
    assemble "jmp nowhere".toList = .error (.resolution "nowhere".toList) ∧
    assemble [] = .ok ⟨[], []⟩ ∧ board.running = false ∧ rolling.running = true := ⟨rfl, rfl, rfl, rfl, rfl⟩
theorem test_witness_HostEvents :
    ∀ e ∈ [Event.reset, .run, .stop, .raiseIrq 3, .setIrqMask 15, .setIrqEnabled true, .key 7, .other .help,
        .inspect .regs, .inspect .mem, .inspect (.memRange 0 15), .inspect (.memRange 3 2)],
      { board with events := [e] }.events = e :: [] := by decide
/-- `run` of a stopped core and of a running one (log 12). -/
theorem test_witness_RunOperation :
    { board with events := [.run] }.events = .run :: [] ∧ board.running = false ∧
    { rolling with events := [.run] }.events = .run :: [] ∧ rolling.running = true := by decide
theorem test_witness_LoadOfASave :
    { board with events := [.save ['a'] false] }.running = false ∧
    findDoc { board with files := [(['a'], board.persist)], events := [.loadState ['a']] }.files ['a'] =
      some board.persist ∧
    board.callStack.length ≤ board.cfg.callDepth ∧
    { board with events := [.save ['a'] true] }.events = .save ['a'] true :: [] ∧ ['b'] ≠ ['a'] :=
  ⟨rfl, rfl, by decide, rfl, by decide⟩
/-- A missing document, and a document for each way to be malformed, the first value outside its width being 16. -/
theorem test_witness_MalformedDocument :
    findDoc board.files ['a'] = none ∧
    (∀ d, findDoc [(['a'], d)] ['a'] = some d) ∧
    board.cfg.callDepth < (List.replicate 17 0).length ∧
    [0, 0, 0].length ≠ 4 ∧ (List.replicate 15 0).length ≠ 16 ∧
    16 ∈ { board.persist with registers := [0, 0, 0, 16] }.registers ∧
    16 = { board.persist with pc := 16 }.pc ∧
    16 ∈ { board.persist with memory := List.replicate 15 0 ++ [16] }.memory ∧
    16 ∈ { board.persist with labels := [(['x'], 16)] }.labels.map Prod.snd ∧
    16 ∈ { board.persist with callStack := [16] }.callStack ∧
    16 = { board.persist with irqMask := 16 }.irqMask ∧
    16 = { board.persist with irqStatus := 16 }.irqStatus ∧
    16 = { board.persist with savedPc := 16 }.savedPc := by
  refine ⟨rfl, fun d => rfl, ?_⟩
  simp
  decide

/-- What is shown at the ends of each region of the default map (20 R54). -/
theorem test_peek_by_address :
    [0, 1, 2, 11, 12, 13, 14, 15].map board.peek = [7, 8, 1, 6, 0, 0, 0, 0] := by decide
/-- A stopped core; a running core, for the four operations of a stopped one; a latched fault; `tick` of a stopped
core. -/
theorem test_witness_StoppedCore :
    (board.events = [] ∧ board.running = false) ∧
    (∀ e ∈ [Event.step, .direct .nop, .save ['a'] false, .save ['a'] true, .loadState ['a']],
      { rolling with events := [e] }.events = e :: [] ∧ { rolling with events := [e] }.running = true) ∧
    (∀ e ∈ [Event.step, .tick, .direct .nop],
      { board with fault := .stackOverflow, events := [e] }.events = e :: [] ∧
        { board with fault := .stackOverflow, events := [e] }.fault ≠ .none) ∧
    { board with events := [.tick] }.events = .tick :: [] := by decide

end Sys2Proof.Tests
end

section
/-! Proofs about the core's state (spec/10_state.md): the registers and their settling, the program counter, the flags,
the state right after reset, and the stopped core. -/

namespace Sys2Proof.Machine

/-! The program counter (10_state.md R24). -/

/-- The increment on the numbers that nibbles stand for: `(pc + 1) mod 16`. -/
theorem pcIncrement_eq_ofNat (p : Nibble) : pcIncrement p = BitVec.ofNat 4 ((p.toNat + 1) % 16) := by
  rw [pcIncrement_eq]
  exact BitVec.eq_of_toNat_eq (by simp [BitVec.toNat_add])

/-- Settles O8: the increment is the adder's by definition, and `next` touches no flag. -/
theorem pcIncrementIsPlusOneModSixteen : Obligations.PcIncrementIsPlusOneModSixteen :=
  ⟨fun p => ⟨pcIncrement_eq_ofNat p, rfl⟩, fun s => ⟨s.next_carry, s.next_zero⟩⟩

/-! Reading registers (10_state.md R19, 40_alu.md R88). -/

/-- A register that floats reads as a fresh free value. -/
theorem RegCell.read_of_floating (c : RegCell) (n : Nat) (h : c.floating = true) :
    c.read n = Config.draw n ∧ c.drawsAfter n = n + 1 := by
  simp [RegCell.read, RegCell.drawsAfter, h]

/-- With X empty, an instruction reads a register that does not float as its value. -/
theorem State.regRead_of_settled (s : State) (r : Reg) (hx : s.executeL = none)
    (hf : (s.regs.get r).floating = false) :
    s.regValue r = (s.regs.get r).val ∧ s.regDraws r = s.draws := by
  rw [s.regValue_of_empty r hx, s.regDraws_of_empty r hx]
  exact RegCell.read_of_settled _ _ hf

/-- With X empty, an instruction reads a register that floats as a fresh free value. -/
theorem State.regRead_of_floating (s : State) (r : Reg) (hx : s.executeL = none)
    (hf : (s.regs.get r).floating = true) :
    s.regValue r = Config.draw s.draws ∧ s.regDraws r = s.draws + 1 := by
  rw [s.regValue_of_empty r hx, s.regDraws_of_empty r hx]
  exact RegCell.read_of_floating _ _ hf

/-- Two operands that are one register are read once (log 7). -/
theorem State.pairRead_same (s : State) (r : Reg) :
    s.pairSecond r r = s.regValue r ∧ s.pairDraws r r = s.regDraws r := by
  simp [State.pairSecond, State.pairDraws]

/-- The second of two different registers is read in the state after the first (log 7). -/
theorem State.pairRead_of_ne (s : State) {r q : Reg} (h : r ≠ q) :
    s.pairSecond r q = (s.afterRead r).regValue q ∧ s.pairDraws r q = (s.afterRead r).regDraws q := by
  simp [State.pairSecond, State.pairDraws, h]

theorem State.pairRead_of_latched (s : State) (e : ExecuteEntry) {r q : Reg} (v : Nibble) (hx : s.executeL = some e)
    (h : r ≠ q) (hv : lookupOperand e.ops q = some v) :
    s.pairSecond r q = v ∧ s.pairDraws r q = s.regDraws r := by
  obtain ⟨hval, hdraws⟩ := s.pairRead_of_ne h
  rw [hval, hdraws]
  exact (s.afterRead r).regValue_of_latched e q v hx hv

theorem State.pairRead_of_settled (s : State) {r q : Reg} (hx : s.executeL = none) (h : r ≠ q)
    (hf : (s.regs.get q).floating = false) :
    s.pairSecond r q = (s.regs.get q).val ∧ s.pairDraws r q = s.regDraws r := by
  obtain ⟨hval, hdraws⟩ := s.pairRead_of_ne h
  rw [hval, hdraws]
  exact (s.afterRead r).regRead_of_settled q hx hf

theorem State.pairRead_of_floating (s : State) {r q : Reg} (hx : s.executeL = none) (h : r ≠ q)
    (hf : (s.regs.get q).floating = true) :
    s.pairSecond r q = Config.draw (s.regDraws r) ∧ s.pairDraws r q = s.regDraws r + 1 := by
  obtain ⟨hval, hdraws⟩ := s.pairRead_of_ne h
  rw [hval, hdraws]
  exact (s.afterRead r).regRead_of_floating q hx hf

/-- Settles O16: the first operand is latched, settled or floating; so is the second, read after the first. -/
theorem registerReadValue : Obligations.RegisterReadValue := by
  refine ⟨State.regValue_of_latched, State.regRead_of_settled, State.regRead_of_floating, State.pairRead_same, ?_,
    fun s e r q v hx hne hv => s.pairRead_of_latched e v hx hne hv,
    fun s r q hx hne hq => s.pairRead_of_settled hx hne hq,
    fun s r q hx hne hq => s.pairRead_of_floating hx hne hq⟩
  intro s r q hx hne hr hq
  obtain ⟨-, hfirst⟩ := s.regRead_of_floating r hx hr
  have hsecond := s.pairRead_of_floating hx hne hq
  rwa [hfirst] at hsecond

/-! Writing registers, and their settling (10_state.md R20, R21). -/

/-- Settles O17 by what the register file holds after one of its cells is replaced. -/
theorem registerWriteSetsOneRegister : Obligations.RegisterWriteSetsOneRegister := fun s r v =>
  ⟨s.regs.get_set_same r ⟨v, false⟩, fun q hq => s.regs.get_set_other r q ⟨v, false⟩ hq⟩

@[simp] theorem RegCell.settled_val (c : RegCell) (stop : Bool) : (c.settled stop).val = c.val := rfl

@[simp] theorem RegCell.settled_true_floating (c : RegCell) : (c.settled true).floating = false :=
  Bool.and_false _

@[simp] theorem RegCell.settled_false (c : RegCell) : c.settled false = c := by
  simp [RegCell.settled]

/-- When the counter reaches 0, or is 0 already, no register floats after the settle tick. -/
theorem State.settleTick_floating_of_le_one (s : State) (h : s.settle ≤ 1) (r : Reg) :
    (s.settleTick.regs.get r).floating = false := by
  have hzero : (s.settle - 1 == 0) = true := beq_iff_eq.2 (by omega)
  rw [s.settleTick_get, hzero, RegCell.settled_true_floating]

/-- While the counter stays above 0 the settle tick leaves the registers as they are. -/
theorem State.settleTick_regs_of_one_lt (s : State) (h : 1 < s.settle) : s.settleTick.regs = s.regs := by
  have hpos : (s.settle - 1 == 0) = false := beq_eq_false_iff_ne.2 (by omega)
  refine RegFile.ext_get _ _ fun r => ?_
  rw [s.settleTick_get, hpos, RegCell.settled_false]

/-- Settles O18: register by register, according to whether the counter is above 1. -/
theorem settlingEndsFloating : Obligations.SettlingEndsFloating := by
  intro s
  refine ⟨rfl, fun r => ?_, s.settleTick_floating_of_le_one, s.settleTick_regs_of_one_lt, rfl⟩
  rw [s.settleTick_get, RegCell.settled_val]

/-! The flags (10_state.md R27). -/

/-- The outcome is a next state with the flags of `s`. -/
def KeepsFlags (s : State) (o : Host.Outcome State Fault Refusal) : Prop :=
  ∃ t : State, o = .next t ∧ t.carry = s.carry ∧ t.zero = s.zero

theorem keepsFlags_next {s t : State} (hc : t.carry = s.carry) (hz : t.zero = s.zero) :
    KeepsFlags s (.next t) := ⟨t, rfl, hc, hz⟩

theorem KeepsFlags.of_eq_next {s t : State} {o : Host.Outcome State Fault Refusal} (h : KeepsFlags s o)
    (ho : o = .next t) : t.carry = s.carry ∧ t.zero = s.zero := by
  obtain ⟨u, hu, hflags⟩ := h
  obtain rfl : u = t := by simpa [hu] using ho
  exact hflags

/-- A gated transfer (42_control_transfer.md R107 to R109) writes no flag. -/
theorem State.branch_flags (s : State) (b : Bool) (t : Nibble) :
    (s.branch b t).carry = s.carry ∧ (s.branch b t).zero = s.zero := by
  rcases s.branch_cases b t with ⟨-, h⟩ | ⟨-, h⟩ <;> simp [h]

/-- `call` on a target (42 R110) writes no flag. -/
theorem State.callTo_flags (s : State) (t : Nibble) :
    (s.callTo t).carry = s.carry ∧ (s.callTo t).zero = s.zero := by
  rcases s.callTo_cases t with ⟨-, h⟩ | ⟨-, h⟩ <;> simp [h]

/-- `ret` (42 R111) writes no flag. -/
theorem State.returnFromCall_flags (s : State) :
    s.returnFromCall.carry = s.carry ∧ s.returnFromCall.zero = s.zero := by
  rcases s.returnFromCall_cases with ⟨_, _, -, -, h⟩ | ⟨_, _, -, -, h⟩ | ⟨-, h⟩ <;> simp [h]

/-- An instruction that is neither of the ALU's nor `iret` keeps both flags. -/
theorem exec_keepsFlags (i : Instr) (s : State)
    (hi : i.kind ∉ [.add, .sub, .mul, .and, .or, .xor, .cmp, .iret]) : KeepsFlags s (exec i s) := by
  cases i with
  | addR | addI | subR | subI | mulR | mulI | andR | andI | orR | orI | xorR | xorI | cmpR | cmpI | iret =>
    simp [Instr.kind] at hi
  | nop | movR | movI | loadR | loadI | storeR | storeI | jmpR | jmpI | hlt | irq => exact keepsFlags_next rfl rfl
  | jzR rb => exact ⟨_, rfl, (s.afterRead rb).branch_flags s.zero (s.regValue rb)⟩
  | jnzR rb => exact ⟨_, rfl, (s.afterRead rb).branch_flags (!s.zero) (s.regValue rb)⟩
  | jcR rb => exact ⟨_, rfl, (s.afterRead rb).branch_flags s.carry (s.regValue rb)⟩
  | jzI t => exact ⟨_, rfl, s.branch_flags s.zero t⟩
  | jnzI t => exact ⟨_, rfl, s.branch_flags (!s.zero) t⟩
  | jcI t => exact ⟨_, rfl, s.branch_flags s.carry t⟩
  | callR rb => exact ⟨_, rfl, (s.afterRead rb).callTo_flags (s.regValue rb)⟩
  | callI t => exact ⟨_, rfl, s.callTo_flags t⟩
  | ret => exact ⟨_, rfl, s.returnFromCall_flags⟩

/-- The register form of an ALU operation leaves the flags that the operation gives. -/
theorem exec_aluRegForm_flags (op : AluOp) (ra rb : Reg) (s : State) :
    ∃ t : State, exec (aluRegForm op ra rb) s = .next t ∧
      t.carry = (alu op (s.regValue ra) (s.pairSecond ra rb)).carry ∧
      t.zero = (alu op (s.regValue ra) (s.pairSecond ra rb)).zero := by
  cases op with
  | cmp => exact ⟨((s.afterPair ra rb).aluCompare _ _).next, rfl, rfl, rfl⟩
  | add | sub | mul | and | or | xor => exact ⟨s.aluReg _ ra rb, rfl, rfl, rfl⟩

/-- The immediate form of an ALU operation leaves the flags that the operation gives. -/
theorem exec_aluImmForm_flags (op : AluOp) (ra : Reg) (k : Nibble) (s : State) :
    ∃ t : State, exec (aluImmForm op ra k) s = .next t ∧
      t.carry = (alu op (s.regValue ra) k).carry ∧ t.zero = (alu op (s.regValue ra) k).zero := by
  cases op with
  | cmp => exact ⟨((s.afterRead ra).aluCompare _ _).next, rfl, rfl, rfl⟩
  | add | sub | mul | and | or | xor => exact ⟨s.aluImm _ ra k, rfl, rfl, rfl⟩

/-- The instructions of the ALU's kinds are the two forms of its operations. -/
theorem kind_mem_alu_iff (i : Instr) :
    i.kind ∈ [.add, .sub, .mul, .and, .or, .xor, .cmp] ↔
      (∃ op ra rb, i = aluRegForm op ra rb) ∨ (∃ op ra k, i = aluImmForm op ra k) := by
  constructor
  · intro hi
    cases i with
    | addR ra rb => exact .inl ⟨.add, ra, rb, rfl⟩
    | subR ra rb => exact .inl ⟨.sub, ra, rb, rfl⟩
    | mulR ra rb => exact .inl ⟨.mul, ra, rb, rfl⟩
    | andR ra rb => exact .inl ⟨.and, ra, rb, rfl⟩
    | orR ra rb => exact .inl ⟨.or, ra, rb, rfl⟩
    | xorR ra rb => exact .inl ⟨.xor, ra, rb, rfl⟩
    | cmpR ra rb => exact .inl ⟨.cmp, ra, rb, rfl⟩
    | addI ra k => exact .inr ⟨.add, ra, k, rfl⟩
    | subI ra k => exact .inr ⟨.sub, ra, k, rfl⟩
    | mulI ra k => exact .inr ⟨.mul, ra, k, rfl⟩
    | andI ra k => exact .inr ⟨.and, ra, k, rfl⟩
    | orI ra k => exact .inr ⟨.or, ra, k, rfl⟩
    | xorI ra k => exact .inr ⟨.xor, ra, k, rfl⟩
    | cmpI ra k => exact .inr ⟨.cmp, ra, k, rfl⟩
    | _ => simp [Instr.kind] at hi
  · rintro (⟨op, ra, rb, rfl⟩ | ⟨op, ra, k, rfl⟩)
    · cases op <;> simp [aluRegForm, Instr.kind]
    · cases op <;> simp [aluImmForm, Instr.kind]

/-- `iret` in a handler returns from the interrupt (60_exceptions.md R131). -/
theorem exec_iret_of_inHandler (s : State) (h : s.intr.inHandler = true) : exec .iret s = .next s.returnFromIrq :=
  congrArg _ (if_pos h)

/-- `iret` with no active handler faults (43_system.md R115). -/
theorem exec_iret_of_outside (s : State) (h : s.intr.inHandler = false) :
    exec .iret s = .next (s.raise .iretOutsideHandler) :=
  congrArg _ (if_neg (by simp [h]))

/-- Settles O39: by instruction for those that keep the flags, by operation for the ALU's, and by the rules for `iret`,
interrupt entry and the halt of END. -/
theorem flagsChangeOnlyByAluAndIret : Obligations.FlagsChangeOnlyByAluAndIret := by
  refine ⟨fun i s t ht hi => (exec_keepsFlags i s hi).of_eq_next ht, exec_aluRegForm_flags, exec_aluImmForm_flags,
    kind_mem_alu_iff, fun s h => ?_, fun s h => ?_, fun s => ⟨rfl, rfl, rfl, rfl⟩, fun s t ht => ?_⟩
  · exact ⟨_, exec_iret_of_inHandler s h, s.returnFromIrq_carry, s.returnFromIrq_zero⟩
  · exact ⟨_, exec_iret_of_outside s h, s.raise_carry _, s.raise_zero _⟩
  · have hhalt : KeepsFlags s (perform exec .endMark s) := keepsFlags_next s.halt_carry s.halt_zero
    exact hhalt.of_eq_next ht

/-! The state right after reset (10_state.md R38). -/

/-- A register floats right after reset only if the settle counter starts above 0 (10_state.md R21). -/
theorem State.reset_floating (r : Reg) : (State.reset.regs.get r).floating = !(State.reset.settle == 0) := by
  cases r <;> rfl

/-- The memories are empty, the latches too, and the registers float only while the settle counter runs. -/
theorem State.reset_inv : State.reset.Inv where
  imem_wf := rfl
  rom_wf := rfl
  ram_wf := rfl
  progLen_le := Nat.zero_le _
  stack_le := Nat.zero_le _
  fault_stops _ := rfl
  faultPc_clear _ := rfl
  stopped_empty _ := ⟨rfl, rfl, rfl⟩
  execute_then_decode h := nomatch h
  decode_then_fetch h := nomatch h
  fetch_pc _ h := nomatch h
  decode_pc _ _ h := nomatch h
  execute_pc _ _ h := nomatch h
  fetch_word _ h := nomatch h
  decode_insn _ h := nomatch h
  execute_insn _ h := nomatch h
  execute_ops _ h := nomatch h
  settled h r := by simp [State.reset_floating r, h]

/-- Settles O53: the default parameters' constraints are a closed check, whatever SETTLE_TICKS is. -/
theorem resetMeetsTheInvariant : Obligations.ResetMeetsTheInvariant :=
  ⟨State.reset_inv, by decide⟩

/-! The stopped core, and failed preconditions (10_state.md R33, 70_reset_and_hazards.md R151). -/

/-- A core that is stopped or has a fault latched cannot tick. -/
theorem State.canTick_eq_false (s : State) (h : s.running = false ∨ s.fault ≠ .none) : s.canTick = false := by
  rw [← Bool.not_eq_true, s.canTick_iff]
  rintro ⟨hrun, hfault⟩
  rcases h with h | h
  · simp [hrun] at h
  · exact h hfault

/-- A core that runs or has a fault latched cannot step. -/
theorem State.canStep_eq_false (s : State) (h : s.running = true ∨ s.fault ≠ .none) : s.canStep = false := by
  rw [← Bool.not_eq_true, s.canStep_iff]
  rintro ⟨hstop, hfault, -⟩
  rcases h with h | h
  · simp [hstop] at h
  · exact h hfault

section preconditions

variable (ex : Meaning) (s : State)

theorem performEvent_tick_of_not (h : s.canTick = false) :
    performEvent ex .tick s = .next (s.answer .preconditionFailed) := by
  simp [performEvent, h]

theorem performEvent_step_of_not (h : s.canStep = false) :
    performEvent ex .step s = .next (s.answer .preconditionFailed) := by
  simp [performEvent, h]

theorem performEvent_direct_of_not (i : Instr) (h : s.canStep = false) :
    performEvent ex (.direct i) s = .next (s.answer .preconditionFailed) := by
  simp [performEvent, h]

theorem performEvent_save_of_running (path : Text) (fails : Bool) (h : s.running = true) :
    performEvent ex (.save path fails) s = .next (s.answer .preconditionFailed) := by
  simp [performEvent, State.hostSave, h]

theorem performEvent_loadState_of_running (path : Text) (h : s.running = true) :
    performEvent ex (.loadState path) s = .next (s.answer .preconditionFailed) := by
  simp [performEvent, State.hostLoadState, h]

end preconditions

/-- Settles O60: the run loop needs a core that can tick, and each operation answers by its precondition. -/
theorem stoppedCoreStaysStopped : Obligations.StoppedCoreStaysStopped := by
  refine ⟨fun s he hstop => step_of_idle s he (s.canTick_eq_false (.inl hstop)), fun s e rest he h => ?_⟩
  rw [step_of_event s e rest he]
  rcases h with ⟨hrun, rfl | ⟨i, rfl⟩ | ⟨path, fails, rfl⟩ | ⟨path, rfl⟩⟩ |
    ⟨hfault, rfl | rfl | ⟨i, rfl⟩⟩ | ⟨hstop, rfl⟩
  · exact performEvent_step_of_not exec _ (State.canStep_eq_false _ (.inl hrun))
  · exact performEvent_direct_of_not exec _ i (State.canStep_eq_false _ (.inl hrun))
  · exact performEvent_save_of_running exec _ path fails hrun
  · exact performEvent_loadState_of_running exec _ path hrun
  · exact performEvent_step_of_not exec _ (State.canStep_eq_false _ (.inr hfault))
  · exact performEvent_tick_of_not exec _ (State.canTick_eq_false _ (.inr hfault))
  · exact performEvent_direct_of_not exec _ i (State.canStep_eq_false _ (.inr hfault))
  · exact performEvent_tick_of_not exec _ (State.canTick_eq_false _ (.inl hstop))

end Sys2Proof.Machine
end

section
/-! Proofs about the memories (spec/20_memory.md): what the bus decoder names, what a bus read and a bus write do at
each address, what load and store do through it, and what no instruction writes. -/

namespace Sys2Proof.Machine

/-! The bus decoder (20_memory.md R43). -/

theorem busRegion_eq_keyStatus_iff (p : Params) (a : Nibble) : busRegion p a = .keyStatus ↔ a = p.keyStatus := by
  unfold busRegion
  split_ifs <;> simp_all

theorem busRegion_eq_keyData_iff (p : Params) (a : Nibble) :
    busRegion p a = .keyData ↔ a ≠ p.keyStatus ∧ a = p.keyData := by
  unfold busRegion
  split_ifs <;> simp_all

theorem busRegion_eq_charOut_iff (p : Params) (a : Nibble) :
    busRegion p a = .charOut ↔ a ≠ p.keyStatus ∧ a ≠ p.keyData ∧ a = p.charOut := by
  unfold busRegion
  split_ifs <;> simp_all

/-- The constraints of 00_scope.md R8 keep CHAR_OUT apart from the keyboard's ports. -/
theorem Params.charOut_ne_key_port {p : Params} (h : p.valid = true) :
    p.charOut ≠ p.keyStatus ∧ p.charOut ≠ p.keyData := by
  simp only [Params.valid, Bool.and_eq_true, decide_eq_true_eq] at h
  obtain ⟨⟨⟨-, hstatus⟩, hdata⟩, -⟩ := h
  exact ⟨hstatus.symm, hdata.symm⟩

/-- Settles O25: the sixteen addresses one by one; SETTLE_TICKS plays no part in the map. -/
theorem defaultAddressMap : Obligations.DefaultAddressMap := by
  unfold Obligations.DefaultAddressMap
  decide

/-! Bus reads (20_memory.md R44, R50, R51). -/

section busRead

variable (s : State) (a : Nibble)

theorem State.busValue_of_keyStatus (h : busRegion s.cfg a = .keyStatus) :
    s.busValue a = if s.keys = [] then 0 else 1 := by
  simp [State.busValue, h, State.keyStatusValue]

theorem State.busValue_of_keyData (h : busRegion s.cfg a = .keyData) : s.busValue a = s.keys.headD 0 := by
  simp [State.busValue, h, State.keyDataValue]

theorem State.busValue_of_charOut (h : busRegion s.cfg a = .charOut) : s.busValue a = 0 := by
  simp [State.busValue, h]

theorem State.busValue_of_rom (i : Nat) (h : busRegion s.cfg a = .rom i) : s.busValue a = s.romCell i := by
  simp [State.busValue, h]

theorem State.busValue_of_ram (i : Nat) (h : busRegion s.cfg a = .ram i) : s.busValue a = s.ramCell i := by
  simp [State.busValue, h]

theorem State.busValue_of_unmapped (h : busRegion s.cfg a = .unmapped) : s.busValue a = 0 := by
  simp [State.busValue, h]

/-- A bus read consumes a key at KEY_DATA only (R51, R59). -/
theorem State.keysAfterRead_eq :
    s.keysAfterRead a = if busRegion s.cfg a = .keyData then s.keys.tail else s.keys := by
  unfold State.keysAfterRead
  split <;> simp [*]

end busRead

/-- Settles O23: the value port by port and then by the sizes of ROM and RAM, the keys by when KEY_DATA is decoded. -/
theorem busReadByAddress : Obligations.BusReadByAddress := by
  intro s a
  constructor
  · by_cases hstatus : a = s.cfg.keyStatus
    · rw [if_pos hstatus, s.busValue_of_keyStatus a ((busRegion_eq_keyStatus_iff _ _).2 hstatus)]
    by_cases hdata : a = s.cfg.keyData
    · rw [if_neg hstatus, if_pos hdata, s.busValue_of_keyData a ((busRegion_eq_keyData_iff _ _).2 ⟨hstatus, hdata⟩)]
    by_cases hchar : a = s.cfg.charOut
    · rw [if_neg hstatus, if_neg hdata, if_pos hchar,
        s.busValue_of_charOut a ((busRegion_eq_charOut_iff _ _).2 ⟨hstatus, hdata, hchar⟩)]
    have hregion := busRegion_of_no_port s.cfg a hstatus hdata hchar
    rw [if_neg hstatus, if_neg hdata, if_neg hchar]
    split_ifs at hregion ⊢
    · exact s.busValue_of_rom a _ hregion
    · exact s.busValue_of_ram a _ hregion
    · exact s.busValue_of_unmapped a hregion
  · simp only [State.afterBusRead, s.keysAfterRead_eq, busRegion_eq_keyData_iff]

/-! Bus writes (20_memory.md R45). -/

section busWrite

variable (s : State) (a v : Nibble)

theorem State.ramAfterWrite_of_ram (i : Nat) (h : busRegion s.cfg a = .ram i) :
    s.ramAfterWrite a v = s.ram.write i v := by
  simp [State.ramAfterWrite, h]

theorem State.ramAfterWrite_of_not_ram (h : ∀ i, busRegion s.cfg a ≠ .ram i) : s.ramAfterWrite a v = s.ram := by
  unfold State.ramAfterWrite
  split
  · exact absurd ‹_› (h _)
  all_goals rfl

/-- A bus write reaches the terminal at CHAR_OUT only (R45, R52). -/
theorem State.displayAfterWrite_eq :
    s.displayAfterWrite a v = if busRegion s.cfg a = .charOut then s.display ++ [v] else s.display := by
  unfold State.displayAfterWrite
  split <;> simp [*]

theorem State.busWrite_of_charOut (h : busRegion s.cfg a = .charOut) :
    s.busWrite a v = { s with display := s.display ++ [v] } := by
  simp [State.busWrite, s.ramAfterWrite_of_not_ram a v (by simp [h]), s.displayAfterWrite_eq, h]

theorem State.busWrite_of_ram (i : Nat) (h : busRegion s.cfg a = .ram i) :
    s.busWrite a v = { s with ram := s.ram.write i v } := by
  simp [State.busWrite, s.ramAfterWrite_of_ram a v i h, s.displayAfterWrite_eq, h]

theorem State.busWrite_of_ignored (hchar : busRegion s.cfg a ≠ .charOut) (hram : ∀ i, busRegion s.cfg a ≠ .ram i) :
    s.busWrite a v = s := by
  simp [State.busWrite, s.ramAfterWrite_of_not_ram a v hram, s.displayAfterWrite_eq, hchar]

end busWrite

/-- A RAM cell after a write to RAM: the written one holds the value, every other one is as before. -/
theorem State.ramCell_of_write {s t : State} {i : Nat} {v : Nibble} (h : t.ram = s.ram.write i v) (j : Nat) :
    t.ramCell j = if j = i then v else s.ramCell j := by
  unfold State.ramCell
  rw [h, Mem.lookup_write]
  split_ifs <;> rfl

/-- Settles O24: by what the address names; CHAR_OUT may come first because the ports are apart. -/
theorem busWriteByAddress : Obligations.BusWriteByAddress := by
  intro s a v hvalid
  obtain ⟨hcs, hcd⟩ := Params.charOut_ne_key_port hvalid
  split_ifs with hchar hkey hrom hram
  · subst hchar
    exact s.busWrite_of_charOut _ v ((busRegion_eq_charOut_iff _ _).2 ⟨hcs, hcd, rfl⟩)
  · have hregion : busRegion s.cfg a = .keyStatus ∨ busRegion s.cfg a = .keyData := by
      rw [busRegion_eq_keyStatus_iff, busRegion_eq_keyData_iff]
      tauto
    exact s.busWrite_of_ignored a v (by rcases hregion with h | h <;> simp [h])
      (by rcases hregion with h | h <;> simp [h])
  all_goals
    obtain ⟨hstatus, hdata⟩ := not_or.1 hkey
    have hregion := busRegion_of_no_port s.cfg a hstatus hdata hchar
  · rw [if_pos hrom] at hregion
    exact s.busWrite_of_ignored a v (by simp [hregion]) (by simp [hregion])
  · rw [if_neg hrom, if_pos hram] at hregion
    have hwrite := s.busWrite_of_ram a v _ hregion
    have hcell := State.ramCell_of_write (congrArg State.ram hwrite)
    refine ⟨?_, ?_, fun j hj => ?_⟩
    · rw [hwrite]
    · rw [hcell, if_pos rfl]
    · rw [hcell, if_neg hj]
  · rw [if_neg hrom, if_neg hram] at hregion
    exact s.busWrite_of_ignored a v (by simp [hregion]) (by simp [hregion])

/-! Load and store (41_data_movement.md R100, R101) as the memories see them. -/

/-- The instruction is a load, in either form, into `ra` from the bus address `ea`. -/
def State.LoadsAt (s : State) (i : Instr) (ra : Reg) (ea : Nibble) : Prop :=
  i = .loadI ra ea ∨ ∃ rb, i = .loadR ra rb ∧ s.regValue rb = ea

/-- The instruction is a store, in either form, of `ra` at the bus address `ea`. -/
def State.StoresAt (s : State) (i : Instr) (ra : Reg) (ea : Nibble) : Prop :=
  i = .storeI ra ea ∨ ∃ rb, i = .storeR ra rb ∧ s.pairSecond ra rb = ea

/-- What a load into `ra` from the bus address `ea` does to the registers and at the bus. -/
structure State.Loaded (s t : State) (ra : Reg) (ea : Nibble) : Prop where
  regs : t.regs = s.regs.set ra ⟨s.busValue ea, false⟩
  keys : t.keys = s.keysAfterRead ea
  ram : t.ram = s.ram
  display : t.display = s.display
  cfg : t.cfg = s.cfg

/-- What a store of `d` at the bus address `ea` does to the registers and at the bus. -/
structure State.Stored (s t : State) (ea d : Nibble) : Prop where
  regs : t.regs = s.regs
  keys : t.keys = s.keys
  ram : t.ram = s.ramAfterWrite ea d
  display : t.display = s.displayAfterWrite ea d
  cfg : t.cfg = s.cfg

theorem exec_of_loadsAt {s : State} {i : Instr} {ra : Reg} {ea : Nibble} (h : s.LoadsAt i ra ea) :
    ∃ t, exec i s = .next t ∧ s.Loaded t ra ea := by
  rcases h with rfl | ⟨rb, rfl, rfl⟩
  · exact ⟨s.loadFrom ra ea, rfl, rfl, rfl, rfl, rfl, rfl⟩
  · exact ⟨(s.afterRead rb).loadFrom ra _, rfl, rfl, rfl, rfl, rfl, rfl⟩

theorem exec_of_storesAt {s : State} {i : Instr} {ra : Reg} {ea : Nibble} (h : s.StoresAt i ra ea) :
    ∃ t, exec i s = .next t ∧ s.Stored t ea (s.regValue ra) := by
  rcases h with rfl | ⟨rb, rfl, rfl⟩
  · exact ⟨(s.afterRead ra).storeTo ea _, rfl, rfl, rfl, rfl, rfl, rfl⟩
  · exact ⟨(s.afterPair ra rb).storeTo _ _, rfl, rfl, rfl, rfl, rfl, rfl⟩

theorem State.LoadsAt.kind {s : State} {i : Instr} {ra : Reg} {ea : Nibble} (h : s.LoadsAt i ra ea) :
    i.kind = .load := by
  rcases h with rfl | ⟨rb, rfl, -⟩ <;> rfl

theorem State.StoresAt.kind {s : State} {i : Instr} {ra : Reg} {ea : Nibble} (h : s.StoresAt i ra ea) :
    i.kind = .store := by
  rcases h with rfl | ⟨rb, rfl, -⟩ <;> rfl

theorem State.Loaded.get {s t : State} {ra : Reg} {ea : Nibble} (h : s.Loaded t ra ea) :
    t.regs.get ra = ⟨s.busValue ea, false⟩ := by
  rw [h.regs, RegFile.get_set_same]

/-- Settles O26: the store writes the cell that the load then reads, the parameters being the same. -/
theorem loadAfterStoreSeesTheValue : Obligations.LoadAfterStoreSeesTheValue := by
  intro s store ra ea i hram hstore
  obtain ⟨t, ht, hstored⟩ := exec_of_storesAt hstore
  refine ⟨t, ht, fun load rb hload => ?_⟩
  obtain ⟨u, hu, hloaded⟩ := exec_of_loadsAt hload
  refine ⟨u, hu, ?_, hloaded.ram⟩
  have hwrite : t.ram = s.ram.write i (s.regValue ra) := by rw [hstored.ram, s.ramAfterWrite_of_ram ea _ i hram]
  have hread : t.busValue ea = t.ramCell i := t.busValue_of_ram ea i (by rw [hstored.cfg, hram])
  rw [hloaded.get, hread, State.ramCell_of_write hwrite, if_pos rfl]

/-- Settles O27: the first load reads KEY_STATUS, so the second finds every key that was there. -/
theorem keyStatusThenKeyData : Obligations.KeyStatusThenKeyData := by
  intro s ra rb hports
  obtain ⟨t, ht, hstatus⟩ := exec_of_loadsAt (s := s) (i := .loadI ra s.cfg.keyStatus) (.inl rfl)
  obtain ⟨u, hu, hdata⟩ := exec_of_loadsAt (s := t) (i := .loadI rb s.cfg.keyData) (.inl rfl)
  have hstatusRegion : busRegion s.cfg s.cfg.keyStatus = .keyStatus := (busRegion_eq_keyStatus_iff _ _).2 rfl
  have hdataRegion : busRegion t.cfg s.cfg.keyData = .keyData := by
    rw [hstatus.cfg]
    exact (busRegion_eq_keyData_iff _ _).2 ⟨hports.symm, rfl⟩
  have hkeys : t.keys = s.keys := by simp [hstatus.keys, s.keysAfterRead_eq, hstatusRegion]
  refine ⟨t, u, ht, hu, ?_, hkeys, ?_, ?_⟩
  · rw [hstatus.get, s.busValue_of_keyStatus _ hstatusRegion]
  · rw [hdata.get, t.busValue_of_keyData _ hdataRegion, hkeys]
  · rw [hdata.keys, t.keysAfterRead_eq, if_pos hdataRegion, hkeys]

/-! The instructions that do not reach the bus (20_memory.md R42, R59, R63). -/

/-- The keys, RAM and what the terminal received are the same. -/
structure State.SameBus (s t : State) : Prop where
  keys : t.keys = s.keys
  ram : t.ram = s.ram
  display : t.display = s.display

theorem State.SameBus.refl (s : State) : s.SameBus s := ⟨rfl, rfl, rfl⟩

theorem State.SameBus.afterRead (s : State) (r : Reg) : s.SameBus (s.afterRead r) := ⟨rfl, rfl, rfl⟩

section sameBus

variable {s u : State} (h : s.SameBus u)

include h

/-- A gated transfer (42_control_transfer.md R107 to R109) does not reach the bus. -/
theorem State.SameBus.branch (b : Bool) (t : Nibble) : s.SameBus (u.branch b t) := by
  rcases u.branch_cases b t with ⟨-, hu⟩ | ⟨-, hu⟩ <;> rw [hu] <;> exact ⟨h.keys, h.ram, h.display⟩

/-- `call` on a target (42 R110) does not reach the bus. -/
theorem State.SameBus.callTo (t : Nibble) : s.SameBus (u.callTo t) := by
  rcases u.callTo_cases t with ⟨-, hu⟩ | ⟨-, hu⟩ <;> rw [hu] <;> exact ⟨h.keys, h.ram, h.display⟩

/-- `ret` (42 R111) does not reach the bus. -/
theorem State.SameBus.returnFromCall : s.SameBus u.returnFromCall := by
  rcases u.returnFromCall_cases with ⟨_, _, -, -, hu⟩ | ⟨_, _, -, -, hu⟩ | ⟨-, hu⟩ <;> rw [hu] <;>
    exact ⟨h.keys, h.ram, h.display⟩

end sameBus

/-- `iret` (43_system.md R115) does not reach the bus, in a handler or outside. -/
theorem exec_iret_sameBus (s : State) : ∃ t, exec .iret s = .next t ∧ s.SameBus t := by
  cases h : s.intr.inHandler with
  | true => exact ⟨_, exec_iret_of_inHandler s h, rfl, rfl, rfl⟩
  | false => exact ⟨_, exec_iret_of_outside s h, rfl, rfl, rfl⟩

/-- An instruction that is neither a load nor a store does not reach the bus. -/
theorem exec_sameBus (i : Instr) (s : State) (hload : i.kind ≠ .load) (hstore : i.kind ≠ .store) :
    ∃ t, exec i s = .next t ∧ s.SameBus t := by
  cases i with
  | loadR | loadI => exact absurd rfl hload
  | storeR | storeI => exact absurd rfl hstore
  | nop | addR | addI | subR | subI | mulR | mulI | andR | andI | orR | orI | xorR | xorI | cmpR | cmpI | movR | movI
  | jmpR | jmpI | hlt | irq => exact ⟨_, rfl, rfl, rfl, rfl⟩
  | jzR rb => exact ⟨_, rfl, (State.SameBus.afterRead s rb).branch s.zero (s.regValue rb)⟩
  | jnzR rb => exact ⟨_, rfl, (State.SameBus.afterRead s rb).branch (!s.zero) (s.regValue rb)⟩
  | jcR rb => exact ⟨_, rfl, (State.SameBus.afterRead s rb).branch s.carry (s.regValue rb)⟩
  | jzI t => exact ⟨_, rfl, (State.SameBus.refl s).branch s.zero t⟩
  | jnzI t => exact ⟨_, rfl, (State.SameBus.refl s).branch (!s.zero) t⟩
  | jcI t => exact ⟨_, rfl, (State.SameBus.refl s).branch s.carry t⟩
  | callR rb => exact ⟨_, rfl, (State.SameBus.afterRead s rb).callTo (s.regValue rb)⟩
  | callI t => exact ⟨_, rfl, (State.SameBus.refl s).callTo t⟩
  | ret => exact ⟨_, rfl, (State.SameBus.refl s).returnFromCall⟩
  | iret => exact exec_iret_sameBus s

theorem State.loadsAt_of_kind (s : State) {i : Instr} (h : i.kind = .load) : ∃ ra ea, s.LoadsAt i ra ea := by
  cases i with
  | loadR ra rb => exact ⟨ra, s.regValue rb, .inr ⟨rb, rfl, rfl⟩⟩
  | loadI ra k => exact ⟨ra, k, .inl rfl⟩
  | _ => cases h

theorem State.storesAt_of_kind (s : State) {i : Instr} (h : i.kind = .store) : ∃ ra ea, s.StoresAt i ra ea := by
  cases i with
  | storeR ra rb => exact ⟨ra, s.pairSecond ra rb, .inr ⟨rb, rfl, rfl⟩⟩
  | storeI ra k => exact ⟨ra, k, .inl rfl⟩
  | _ => cases h

/-- What an instruction can do at the bus: a load reads it, a store writes it, every other instruction leaves it. -/
theorem exec_at_bus (i : Instr) (s : State) :
    ∃ t, exec i s = .next t ∧
      ((∃ ra ea, s.LoadsAt i ra ea ∧ s.Loaded t ra ea) ∨
        (∃ ra ea, s.StoresAt i ra ea ∧ s.Stored t ea (s.regValue ra)) ∨ s.SameBus t) := by
  by_cases hload : i.kind = .load
  · obtain ⟨ra, ea, h⟩ := s.loadsAt_of_kind hload
    obtain ⟨t, ht, hloaded⟩ := exec_of_loadsAt h
    exact ⟨t, ht, .inl ⟨ra, ea, h, hloaded⟩⟩
  by_cases hstore : i.kind = .store
  · obtain ⟨ra, ea, h⟩ := s.storesAt_of_kind hstore
    obtain ⟨t, ht, hstored⟩ := exec_of_storesAt h
    exact ⟨t, ht, .inr (.inl ⟨ra, ea, h, hstored⟩)⟩
  obtain ⟨t, ht, hsame⟩ := exec_sameBus i s hload hstore
  exact ⟨t, ht, .inr (.inr hsame)⟩

/-- A load changes the keys only at KEY_DATA, where it removes the oldest. -/
theorem State.Loaded.keyData_of_keys_ne {s t : State} {ra : Reg} {ea : Nibble} (h : s.Loaded t ra ea)
    (hne : t.keys ≠ s.keys) : busRegion s.cfg ea = .keyData ∧ t.keys = s.keys.tail := by
  rw [h.keys, s.keysAfterRead_eq] at hne ⊢
  split_ifs at hne ⊢ with hregion
  · exact ⟨hregion, rfl⟩
  · exact absurd rfl hne

/-- A store reaches the terminal only at CHAR_OUT, and the terminal receives its data. -/
theorem State.Stored.charOut_of_display_ne {s t : State} {ea d : Nibble} (h : s.Stored t ea d)
    (hne : t.display ≠ s.display) : busRegion s.cfg ea = .charOut ∧ t.display = s.display ++ [d] := by
  rw [h.display, s.displayAfterWrite_eq] at hne ⊢
  split_ifs at hne ⊢ with hregion
  · exact ⟨hregion, rfl⟩
  · exact absurd rfl hne

/-- Settles O28: by whether the instruction loads, stores, or leaves the bus alone. -/
theorem onlyLoadAndStoreReachTheBus : Obligations.OnlyLoadAndStoreReachTheBus := by
  intro i s t ht
  obtain ⟨u, hu, hbus⟩ := exec_at_bus i s
  obtain rfl : u = t := by simpa [hu] using ht
  rcases hbus with ⟨ra, ea, hload, h⟩ | ⟨ra, ea, hstore, h⟩ | h
  · refine ⟨fun hk => absurd hload.kind hk, fun _ => ⟨h.ram, h.display⟩, fun hne => ?_, fun hne => absurd h.display hne⟩
    exact ⟨ra, ea, hload.imp_right fun ⟨rb, hi, hea⟩ => ⟨rb, hi, hea.symm⟩, h.keyData_of_keys_ne hne⟩
  · refine ⟨fun _ => h.keys, fun hk => absurd hstore.kind hk, fun hne => absurd h.keys hne, fun hne => ?_⟩
    exact ⟨ra, ea, hstore.imp_right fun ⟨rb, hi, hea⟩ => ⟨rb, hi, hea.symm⟩, h.charOut_of_display_ne hne⟩
  · exact ⟨fun _ => h.keys, fun _ => ⟨h.ram, h.display⟩, fun hne => absurd h.keys hne, fun hne => absurd h.display hne⟩

/-! What only the host writes (10_state.md R31, 20_memory.md R39, R46, 60_exceptions.md R122). -/

/-- An instruction that answers a next state ends there in one of the four ways, after changes that disturb nothing. -/
theorem exec_next_cases {i : Instr} {s t : State} (h : exec i s = .next t) :
    ∃ u, Undisturbed s u ∧ (t = u.next ∨ (∃ p, t = u.jumpTo p) ∨ (∃ c, t = u.raise c) ∨ t = u.halt) := by
  obtain ⟨u, hu, hends⟩ := exec_ends i s
  refine ⟨u, hu, ?_⟩
  rw [h] at hends
  rcases hends with ⟨-, ht⟩ | ⟨-, p, ht⟩ | ⟨c, -, ht⟩ | ⟨-, ht⟩ <;> cases ht
  · exact .inl rfl
  · exact .inr (.inl ⟨p, rfl⟩)
  · exact .inr (.inr (.inl ⟨c, rfl⟩))
  · exact .inr (.inr (.inr rfl))

/-- Settles O40: neither an instruction's changes nor any of its ends write one of these. -/
theorem noInstructionWritesWhatOnlyTheHostWrites : Obligations.NoInstructionWritesWhatOnlyTheHostWrites := by
  intro i s t ht
  obtain ⟨u, hu, rfl | ⟨p, rfl⟩ | ⟨c, rfl⟩ | rfl⟩ := exec_next_cases ht
  all_goals
    exact ⟨hu.imem, hu.progLen, hu.rom, hu.mask, hu.enabled, hu.settle, hu.cfg, hu.labels, hu.files, hu.events,
      hu.reply⟩

end Sys2Proof.Machine
end

section
/-! Proofs about the instruction codec (spec/30_encoding.md R68 to R77): the rows of the encoding table, decoding and
encoding as inverses of each other, the illegal words. -/

namespace Sys2Proof

open Machine

/-! The rows of the table (30_encoding.md R74). -/

/-- Two rows disagree on a bit that the masks of both fix. -/
def EncodingRow.Clashes (r q : EncodingRow) : Prop :=
  r.matchBits &&& q.maskBits ≠ q.matchBits &&& r.maskBits

theorem EncodingRow.covers_iff (r : EncodingRow) (w : Word) : r.covers w = true ↔ w &&& r.maskBits = r.matchBits := by
  simp [EncodingRow.covers]

/-- No word is covered by two rows that clash: the bits both masks fix would have two values. -/
theorem EncodingRow.Clashes.not_both {r q : EncodingRow} (h : r.Clashes q) (w : Word) :
    ¬ (r.covers w = true ∧ q.covers w = true) := by
  rw [r.covers_iff, q.covers_iff]
  rintro ⟨hr, hq⟩
  apply h
  rw [← hr, ← hq, BitVec.and_assoc, BitVec.and_assoc, BitVec.and_comm q.maskBits]

theorem encodingRows_clash : encodingRows.Pairwise EncodingRow.Clashes := by
  unfold EncodingRow.Clashes
  decide

/-- Settles O3: any two rows of the table clash. -/
theorem noTwoEncodingRowsMatchOneWord : Obligations.NoTwoEncodingRowsMatchOneWord :=
  ⟨rfl, fun w => encodingRows_clash.imp fun h => h.not_both w⟩

/-- A row that covers a word is the row that decoding finds: there is no other. -/
theorem find?_row_of_covers {r : EncodingRow} {w : Word} (hr : r ∈ encodingRows) (hw : r.covers w = true) :
    encodingRows.find? (fun q => q.covers w) = some r := by
  have hfound : (encodingRows.find? fun q => q.covers w).isSome = true := List.find?_isSome.2 ⟨r, hr, hw⟩
  obtain ⟨q, hq⟩ := Option.isSome_iff_exists.1 hfound
  have hqw : q.covers w = true := List.find?_some (p := fun q => EncodingRow.covers q w) hq
  have hsymm : Std.Symm fun x y : EncodingRow => ¬ (x.covers w = true ∧ y.covers w = true) :=
    ⟨fun _ _ h hyx => h hyx.symm⟩
  by_contra hne
  have hrq : r ≠ q := fun h => hne (h ▸ hq)
  exact (noTwoEncodingRowsMatchOneWord.2 w).forall hr (List.mem_of_find?_eq_some hq) hrq ⟨hw, hqw⟩

theorem decode_of_covers {r : EncodingRow} {w : Word} (hr : r ∈ encodingRows) (hw : r.covers w = true) :
    decode w = .insn (r.build (raField w) (rbField w) (immField w)) := by
  unfold decode
  rw [find?_row_of_covers hr hw]

/-! Decoding an encoded instruction (30_encoding.md R77). -/

/-- The word of every instruction lies in a row that builds the instruction back. -/
theorem encodesInRow (i : Instr) : Laws.EncodesInRow.Statement i := by
  cases i with
  | nop => exact Laws.EncodesInRow.nop
  | addR ra rb => exact Laws.EncodesInRow.addR ra rb
  | addI ra k => exact Laws.EncodesInRow.addI ra k
  | subR ra rb => exact Laws.EncodesInRow.subR ra rb
  | subI ra k => exact Laws.EncodesInRow.subI ra k
  | mulR ra rb => exact Laws.EncodesInRow.mulR ra rb
  | mulI ra k => exact Laws.EncodesInRow.mulI ra k
  | andR ra rb => exact Laws.EncodesInRow.andR ra rb
  | andI ra k => exact Laws.EncodesInRow.andI ra k
  | orR ra rb => exact Laws.EncodesInRow.orR ra rb
  | orI ra k => exact Laws.EncodesInRow.orI ra k
  | xorR ra rb => exact Laws.EncodesInRow.xorR ra rb
  | xorI ra k => exact Laws.EncodesInRow.xorI ra k
  | cmpR ra rb => exact Laws.EncodesInRow.cmpR ra rb
  | cmpI ra k => exact Laws.EncodesInRow.cmpI ra k
  | movR ra rb => exact Laws.EncodesInRow.movR ra rb
  | movI ra k => exact Laws.EncodesInRow.movI ra k
  | loadR ra rb => exact Laws.EncodesInRow.loadR ra rb
  | loadI ra k => exact Laws.EncodesInRow.loadI ra k
  | storeR ra rb => exact Laws.EncodesInRow.storeR ra rb
  | storeI ra k => exact Laws.EncodesInRow.storeI ra k
  | jmpR rb => exact Laws.EncodesInRow.jmpR rb
  | jmpI k => exact Laws.EncodesInRow.jmpI k
  | jzR rb => exact Laws.EncodesInRow.jzR rb
  | jzI k => exact Laws.EncodesInRow.jzI k
  | jnzR rb => exact Laws.EncodesInRow.jnzR rb
  | jnzI k => exact Laws.EncodesInRow.jnzI k
  | jcR rb => exact Laws.EncodesInRow.jcR rb
  | jcI k => exact Laws.EncodesInRow.jcI k
  | callR rb => exact Laws.EncodesInRow.callR rb
  | callI k => exact Laws.EncodesInRow.callI k
  | ret => exact Laws.EncodesInRow.ret
  | iret => exact Laws.EncodesInRow.iret
  | hlt => exact Laws.EncodesInRow.hlt
  | irq n => exact Laws.EncodesInRow.irq n

theorem decode_encode (i : Instr) (h : i.wellFormed = true) : decode (encode i) = .insn i := by
  obtain ⟨r, hr, hcovers, hbuild⟩ := encodesInRow i h
  rw [decode_of_covers hr hcovers, hbuild]

/-! The words of the forms as numbers (30_encoding.md R69, R74). -/

theorem rbBits_toNat (r : Reg) : (rbBits r).toNat = 16 * regNumber r := by
  cases r <;> rfl

theorem immBits_toNat (k : Nibble) : (immBits k).toNat = k.toNat :=
  BitVec.toNat_setWidth_of_le (by decide)

/-- Fields below bit 8 are added to a match value whose low byte is 0. -/
theorem toNat_match_or (m : Nat) (fields : Word) (hm : m < 65536 ∧ m % 256 = 0) (hf : fields.toNat < 256) :
    (BitVec.ofNat 16 m ||| fields).toNat = m + fields.toNat := by
  obtain ⟨q, rfl⟩ : 2 ^ 8 ∣ m := Nat.dvd_of_mod_eq_zero hm.2
  rw [BitVec.toNat_or, BitVec.toNat_ofNat, Nat.mod_eq_of_lt hm.1, Nat.two_pow_add_eq_or_of_lt hf]

/-- Forms that are each their match value with the same fields, which make the number `n`. -/
theorem encodesWith_of_fields {fields : Word} {n : Nat} {forms : List (Instr × Nat)} (hfields : fields.toNat = n)
    (hn : n < 256)
    (h : ∀ form ∈ forms, (form.2 < 65536 ∧ form.2 % 256 = 0) ∧ encode form.1 = BitVec.ofNat 16 form.2 ||| fields) :
    encodesWith n forms := by
  intro form hform
  obtain ⟨hm, hencode⟩ := h form hform
  rw [hencode, toNat_match_or form.2 fields hm (hfields ▸ hn), hfields]

theorem raBits_or_rbBits_toNat (ra rb : Reg) :
    (raBits ra ||| rbBits rb).toNat = 64 * regNumber ra + 16 * regNumber rb := by
  cases ra <;> cases rb <;> rfl

theorem raBits_or_immBits_toNat (ra : Reg) (k : Nibble) :
    (raBits ra ||| immBits k).toNat = 64 * regNumber ra + k.toNat := by
  revert k
  cases ra <;> decide

theorem regNumber_lt (r : Reg) : regNumber r < 4 := by
  cases r <;> decide

/-- Settles O1: an instruction's word lies in the one row that builds it back; each form's fields lie below its match
value's lowest bit. -/
theorem decodeOfEncodeIsTheInstruction : Obligations.DecodeOfEncodeIsTheInstruction := by
  refine ⟨decode_encode, fun ra rb k => ?_⟩
  have hra := regNumber_lt ra
  have hrb := regNumber_lt rb
  have hk := k.isLt
  refine ⟨?_, ?_, ?_, ?_, ?_, fun _ => ?_⟩
  · exact encodesWith_of_fields (raBits_or_rbBits_toNat ra rb) (by omega) (by simp [encode, BitVec.or_assoc])
  · exact encodesWith_of_fields (raBits_or_immBits_toNat ra k) (by omega) (by simp [encode, BitVec.or_assoc])
  · exact encodesWith_of_fields (rbBits_toNat rb) (by omega) (by simp [encode])
  · exact encodesWith_of_fields (immBits_toNat k) (by omega) (by simp [encode])
  · exact encodesWith_of_fields BitVec.toNat_zero (by omega) (by simp [encode])
  · exact encodesWith_of_fields (immBits_toNat k) (by omega) (by simp [encode])

/-! Encoding a decoded word (30_encoding.md R77). -/

/-- Encoding what the row builds from a word it covers gives that word back, and the instruction is well formed. -/
def EncodingRow.RoundTrips (r : EncodingRow) : Prop :=
  ∀ w, r.covers w = true →
    encode (r.build (raField w) (rbField w) (immField w)) = w ∧
      (r.build (raField w) (rbField w) (immField w)).wellFormed = true

/-- A word that a row covers is the match value with any of the word's bits that include those the mask leaves free. -/
theorem EncodingRow.match_or_eq_of_covers {r : EncodingRow} {w : Word} (h : r.covers w = true) (m : Word)
    (hm : r.maskBits ||| m = BitVec.allOnes 16) : r.matchBits ||| w &&& m = w := by
  rw [← (r.covers_iff w).1 h, ← BitVec.and_or_distrib_left, hm, BitVec.and_allOnes]

/-- It is enough that encoding puts the word's bits `m`, those that the mask leaves free among them, back in place. -/
theorem EncodingRow.RoundTrips.of_encode {v mask : Word} {build : Reg → Reg → Nibble → Instr} (m : Word)
    (hm : mask ||| m = BitVec.allOnes 16)
    (hencode : ∀ w, encode (build (raField w) (rbField w) (immField w)) = v ||| w &&& m)
    (hwf : ∀ w, w &&& mask = v → (build (raField w) (rbField w) (immField w)).wellFormed = true) :
    EncodingRow.RoundTrips ⟨v, mask, build⟩ := fun w hw =>
  ⟨(hencode w).trans (EncodingRow.match_or_eq_of_covers hw m hm), hwf w ((EncodingRow.covers_iff _ w).1 hw)⟩

section rowShapes

variable {v : Word}

theorem roundTrips_noFields {i : Instr} (h : encode i = v ∧ i.wellFormed = true) :
    EncodingRow.RoundTrips ⟨v, 0xFFFF, fun _ _ _ => i⟩ :=
  .of_encode 0 (by decide) (fun w => by simp [h.1]) fun _ _ => h.2

theorem roundTrips_raRb {b : Reg → Reg → Instr}
    (h : ∀ ra rb, encode (b ra rb) = v ||| raBits ra ||| rbBits rb ∧ (b ra rb).wellFormed = true) :
    EncodingRow.RoundTrips ⟨v, 0xFF0F, fun ra rb _ => b ra rb⟩ := by
  refine .of_encode (0x00C0 ||| 0x0030) (by decide) (fun w => ?_) fun _ _ => (h _ _).2
  rw [(h _ _).1, raBits_raField, rbBits_rbField, BitVec.or_assoc, BitVec.and_or_distrib_left]

theorem roundTrips_raImm {b : Reg → Nibble → Instr}
    (h : ∀ ra k, encode (b ra k) = v ||| raBits ra ||| immBits k ∧ (b ra k).wellFormed = true) :
    EncodingRow.RoundTrips ⟨v, 0xFF30, fun ra _ k => b ra k⟩ := by
  refine .of_encode (0x00C0 ||| 0x000F) (by decide) (fun w => ?_) fun _ _ => (h _ _).2
  rw [(h _ _).1, raBits_raField, immBits_immField, BitVec.or_assoc, BitVec.and_or_distrib_left]

theorem roundTrips_rb {b : Reg → Instr} (h : ∀ rb, encode (b rb) = v ||| rbBits rb ∧ (b rb).wellFormed = true) :
    EncodingRow.RoundTrips ⟨v, 0xFFCF, fun _ rb _ => b rb⟩ := by
  refine .of_encode 0x0030 (by decide) (fun w => ?_) fun _ _ => (h _).2
  rw [(h _).1, rbBits_rbField]

theorem roundTrips_imm {b : Nibble → Instr} (h : ∀ k, encode (b k) = v ||| immBits k ∧ (b k).wellFormed = true) :
    EncodingRow.RoundTrips ⟨v, 0xFFF0, fun _ _ k => b k⟩ := by
  refine .of_encode 0x000F (by decide) (fun w => ?_) fun _ _ => (h _).2
  rw [(h _).1, immBits_immField]

end rowShapes

/-- `IMM[3:2]` is 00 in a word that the row of `irq` covers (30_encoding.md R70). -/
theorem immField_lt_of_irq_covers {w : Word} (h : w &&& 0xFFFC = 0xF100) : (immField w).toNat < 4 := by
  have hbits : immField w &&& 0xC = 0 := by
    have hlow := congrArg (BitVec.extractLsb' 0 4) h
    rwa [BitVec.extractLsb'_and] at hlow
  revert hbits
  generalize immField w = k
  revert k
  decide

theorem roundTrips_irq : EncodingRow.RoundTrips ⟨0xF100, 0xFFFC, fun _ _ k => .irq k⟩ := by
  refine .of_encode 0x000F (by decide) (fun w => ?_) fun w hw => ?_
  · rw [encode, immBits_immField]
  · exact decide_eq_true (immField_lt_of_irq_covers hw)

theorem aluRows_roundTrip : ∀ r ∈ aluRows, r.RoundTrips := by
  simp only [aluRows, List.forall_mem_cons]
  exact ⟨roundTrips_noFields ⟨rfl, rfl⟩,
    roundTrips_raRb fun _ _ => ⟨rfl, rfl⟩, roundTrips_raImm fun _ _ => ⟨rfl, rfl⟩,
    roundTrips_raRb fun _ _ => ⟨rfl, rfl⟩, roundTrips_raImm fun _ _ => ⟨rfl, rfl⟩,
    roundTrips_raRb fun _ _ => ⟨rfl, rfl⟩, roundTrips_raImm fun _ _ => ⟨rfl, rfl⟩,
    roundTrips_raRb fun _ _ => ⟨rfl, rfl⟩, roundTrips_raImm fun _ _ => ⟨rfl, rfl⟩,
    roundTrips_raRb fun _ _ => ⟨rfl, rfl⟩, roundTrips_raImm fun _ _ => ⟨rfl, rfl⟩,
    roundTrips_raRb fun _ _ => ⟨rfl, rfl⟩, roundTrips_raImm fun _ _ => ⟨rfl, rfl⟩,
    roundTrips_raRb fun _ _ => ⟨rfl, rfl⟩, roundTrips_raImm fun _ _ => ⟨rfl, rfl⟩, List.forall_mem_nil _⟩

theorem moveRows_roundTrip : ∀ r ∈ moveRows, r.RoundTrips := by
  simp only [moveRows, List.forall_mem_cons]
  exact ⟨roundTrips_raRb fun _ _ => ⟨rfl, rfl⟩, roundTrips_raImm fun _ _ => ⟨rfl, rfl⟩,
    roundTrips_raRb fun _ _ => ⟨rfl, rfl⟩, roundTrips_raImm fun _ _ => ⟨rfl, rfl⟩,
    roundTrips_raRb fun _ _ => ⟨rfl, rfl⟩, roundTrips_raImm fun _ _ => ⟨rfl, rfl⟩, List.forall_mem_nil _⟩

theorem controlRows_roundTrip : ∀ r ∈ controlRows, r.RoundTrips := by
  simp only [controlRows, List.forall_mem_cons]
  exact ⟨roundTrips_rb fun _ => ⟨rfl, rfl⟩, roundTrips_imm fun _ => ⟨rfl, rfl⟩,
    roundTrips_rb fun _ => ⟨rfl, rfl⟩, roundTrips_imm fun _ => ⟨rfl, rfl⟩,
    roundTrips_rb fun _ => ⟨rfl, rfl⟩, roundTrips_imm fun _ => ⟨rfl, rfl⟩,
    roundTrips_rb fun _ => ⟨rfl, rfl⟩, roundTrips_imm fun _ => ⟨rfl, rfl⟩,
    roundTrips_rb fun _ => ⟨rfl, rfl⟩, roundTrips_imm fun _ => ⟨rfl, rfl⟩,
    roundTrips_noFields ⟨rfl, rfl⟩, roundTrips_noFields ⟨rfl, rfl⟩, roundTrips_noFields ⟨rfl, rfl⟩,
    roundTrips_irq, List.forall_mem_nil _⟩

theorem encodingRows_roundTrip {r : EncodingRow} (h : r ∈ encodingRows) : r.RoundTrips := by
  simp only [encodingRows, List.mem_append] at h
  rcases h with (h | h) | h
  · exact aluRows_roundTrip r h
  · exact moveRows_roundTrip r h
  · exact controlRows_roundTrip r h

theorem encode_decode {w : Word} {i : Instr} (h : decode w = .insn i) : encode i = w ∧ i.wellFormed = true := by
  obtain ⟨r, hr, hw, rfl⟩ := decode_insn_row h
  exact encodingRows_roundTrip hr w hw

/-- Settles O2: a legal word is determined by the instruction it decodes to, as that instruction's encoding. -/
theorem encodeOfDecodeIsTheWord : Obligations.EncodeOfDecodeIsTheWord :=
  ⟨fun _ _ h => encode_decode h, fun v w i hv hw =>
    calc v = encode i := (encode_decode hv).1.symm
      _ = w := (encode_decode hw).1⟩

/-- Settles O5, by evaluating the decoder on each word. -/
theorem sampleWordsDecode : Obligations.SampleWordsDecode := by
  and_intros <;> rfl

/-! The illegal words (30_encoding.md R75). -/

/-- Two words are the same when their fields OP, M, F, RA, RB and IMM (30_encoding.md R69) are. -/
theorem word_eq_iff_fields (v w : Word) :
    v = w ↔ v.extractLsb' 12 4 = w.extractLsb' 12 4 ∧ v.getLsbD 11 = w.getLsbD 11 ∧
      v.extractLsb' 8 3 = w.extractLsb' 8 3 ∧ v.extractLsb' 6 2 = w.extractLsb' 6 2 ∧
      v.extractLsb' 4 2 = w.extractLsb' 4 2 ∧ v.extractLsb' 0 4 = w.extractLsb' 0 4 := by
  refine ⟨fun h => h ▸ ⟨rfl, rfl, rfl, rfl, rfl, rfl⟩, fun ⟨hop, hm, hf, hra, hrb, himm⟩ => ?_⟩
  have bit (start len : Nat) (h : v.extractLsb' start len = w.extractLsb' start len) (i : Nat) (hs : start ≤ i)
      (hl : i < start + len) : v.getLsbD i = w.getLsbD i := by
    have hbit := congrArg (BitVec.getLsbD · (i - start)) h
    simpa [show i - start < len by omega, show start + (i - start) = i by omega] using hbit
  refine BitVec.eq_of_getLsbD_eq fun i hi => ?_
  obtain h | h | h | h | rfl | h : i < 4 ∨ 4 ≤ i ∧ i < 6 ∨ 6 ≤ i ∧ i < 8 ∨ 8 ≤ i ∧ i < 11 ∨ i = 11 ∨ 12 ≤ i := by
    omega
  · exact bit 0 4 himm i (by omega) (by omega)
  · exact bit 4 2 hrb i (by omega) (by omega)
  · exact bit 6 2 hra i (by omega) (by omega)
  · exact bit 8 3 hf i (by omega) (by omega)
  · exact hm
  · exact bit 12 4 hop i (by omega) (by omega)

/-- A row covers a word when the fields of the word, under the mask, are those of the match value. -/
theorem EncodingRow.covers_iff_fields (r : EncodingRow) (w : Word) :
    r.covers w = true ↔
      w.extractLsb' 12 4 &&& r.maskBits.extractLsb' 12 4 = r.matchBits.extractLsb' 12 4 ∧
        (w.getLsbD 11 && r.maskBits.getLsbD 11) = r.matchBits.getLsbD 11 ∧
        w.extractLsb' 8 3 &&& r.maskBits.extractLsb' 8 3 = r.matchBits.extractLsb' 8 3 ∧
        w.extractLsb' 6 2 &&& r.maskBits.extractLsb' 6 2 = r.matchBits.extractLsb' 6 2 ∧
        w.extractLsb' 4 2 &&& r.maskBits.extractLsb' 4 2 = r.matchBits.extractLsb' 4 2 ∧
        w.extractLsb' 0 4 &&& r.maskBits.extractLsb' 0 4 = r.matchBits.extractLsb' 0 4 := by
  rw [r.covers_iff, word_eq_iff_fields]
  simp only [BitVec.extractLsb'_and, BitVec.getLsbD_and]

theorem and_highBits_eq_zero_iff (k : Nibble) : k &&& 12#4 = 0#4 ↔ k.toNat < 4 := by
  revert k
  decide

/-- A mask of ones keeps a field whole. -/
theorem field_and_fullMask :
    (∀ x : BitVec 4, x &&& 15#4 = x) ∧ (∀ x : BitVec 3, x &&& 7#3 = x) ∧ ∀ x : BitVec 2, x &&& 3#2 = x :=
  ⟨fun _ => BitVec.and_allOnes, fun _ => BitVec.and_allOnes, fun _ => BitVec.and_allOnes⟩

/-- Settles O4: the fields of the words that no row covers, compared with the eight points opcode by opcode. -/
theorem illegalWordsAreThoseOfTheList : Obligations.IllegalWordsAreThoseOfTheList := by
  intro w
  rw [decode_illegal_iff, ne_eq, word_eq_iff_fields w 0]
  simp only [encodingRows, aluRows, moveRows, controlRows, List.cons_append, List.nil_append, List.forall_mem_cons,
    ← Bool.not_eq_true, EncodingRow.covers_iff_fields]
  generalize w.extractLsb' 12 4 = op, w.getLsbD 11 = m, w.extractLsb' 8 3 = f, w.extractLsb' 6 2 = ra,
    w.extractLsb' 4 2 = rb, w.extractLsb' 0 4 = imm
  simp only [BitVec.ofNat_eq_ofNat, BitVec.reduceExtractLsb', BitVec.reduceGetLsb, BitVec.extractLsb'_zero,
    BitVec.getLsbD_zero, field_and_fullMask, BitVec.and_zero, and_highBits_eq_zero_iff, Bool.and_true, ne_eq]
  simp only [← BitVec.toNat_inj, BitVec.reduceToNat]
  have hop := op.isLt
  generalize op.toNat = op at hop ⊢
  interval_cases op <;> simp
  all_goals cases m <;> simp <;> omega

end Sys2Proof
end

section
/-! Proofs about the registers an instruction reads and writes (spec/30_encoding.md R78, R79). -/

namespace Sys2Proof.Machine

/-! The sources of the forms with two registers, each once (30_encoding.md R78; log 7). -/

theorem pairSources_nodup (ra rb : Reg) : (if ra = rb then [ra] else [ra, rb]).Nodup := by
  split_ifs with h
  · exact List.nodup_singleton ra
  · simpa using h

theorem mem_pairSources_iff (ra rb r : Reg) : (r ∈ if ra = rb then [ra] else [ra, rb]) ↔ r ∈ [ra, rb] := by
  split_ifs with h
  · simp [h]
  · rfl

/-! The state with another register file. -/

/-- The state with its registers replaced. -/
def State.withRegs (s : State) (f : RegFile) : State := { s with regs := f }

section withRegs

variable (s : State) (f : RegFile)

/-- Reading a register depends on that register alone. -/
theorem State.read_withRegs {r : Reg} (h : f.get r = s.regs.get r) :
    (s.withRegs f).regValue r = s.regValue r ∧ (s.withRegs f).afterRead r = (s.afterRead r).withRegs f := by
  obtain ⟨hvalue, hdraws⟩ := s.regValue_congr f r h
  exact ⟨hvalue, by simp only [State.afterRead, State.withRegs, hdraws]⟩

/-- Reading two registers depends on those two alone. -/
theorem State.readPair_withRegs {ra rb : Reg} (ha : f.get ra = s.regs.get ra) (hb : f.get rb = s.regs.get rb) :
    (s.withRegs f).pairSecond ra rb = s.pairSecond ra rb ∧
      (s.withRegs f).afterPair ra rb = (s.afterPair ra rb).withRegs f := by
  obtain ⟨hsecond, hdraws⟩ := s.pairSecond_congr f ra rb ha hb
  exact ⟨hsecond, by simp only [State.afterPair, State.withRegs, hdraws]⟩

theorem State.branch_withRegs (b : Bool) (t : Nibble) : (s.withRegs f).branch b t = (s.branch b t).withRegs f := by
  cases b <;> rfl

theorem State.callTo_withRegs (t : Nibble) : (s.withRegs f).callTo t = (s.callTo t).withRegs f := by
  have hfull : (s.withRegs f).stackFull = s.stackFull := rfl
  unfold State.callTo
  rw [hfull]
  split <;> rfl

theorem State.returnFromCall_withRegs : (s.withRegs f).returnFromCall = s.returnFromCall.withRegs f := by
  have hstack : (s.withRegs f).callStack = s.callStack := rfl
  have hlen : (s.withRegs f).progLen = s.progLen := rfl
  unfold State.returnFromCall
  rw [hstack, hlen]
  split
  · rfl
  · split <;> rfl

/-- The two ends of `iret` (43_system.md R115). -/
theorem State.endOfIret_withRegs :
    (if (s.withRegs f).intr.inHandler then (s.withRegs f).returnFromIrq
      else (s.withRegs f).raise .iretOutsideHandler) =
      (if s.intr.inHandler then s.returnFromIrq else s.raise .iretOutsideHandler).withRegs f := by
  have hintr : (s.withRegs f).intr = s.intr := rfl
  rw [hintr]
  split <;> rfl

end withRegs

/-! What an instruction does, as a function of its sources (30_encoding.md R78, R79). -/

/-- The register file after an instruction has written `c` to its destination, if it has one. -/
def RegFile.setDest (f : RegFile) (dest : Option Reg) (c : RegCell) : RegFile :=
  match dest with
  | some r => f.set r c
  | none => f

theorem RegFile.get_setDest_of_ne (f : RegFile) {dest : Option Reg} {r : Reg} (c : RegCell) (h : dest ≠ some r) :
    (f.setDest dest c).get r = f.get r := by
  cases dest with
  | none => rfl
  | some q => exact f.get_set_other q r c fun hr => h (hr ▸ rfl)

theorem RegFile.get_setDest_of_eq (f : RegFile) {dest : Option Reg} {r : Reg} (c : RegCell) (h : dest = some r) :
    (f.setDest dest c).get r = c := by
  rw [h]
  exact f.get_set_same r c

/-- The operation looks at no register, and of the registers it writes `dest` only. -/
def RegBlind (g : State → State) (dest : Option Reg) : Prop :=
  ∀ u, ∃ c, ∀ f, g (u.withRegs f) = (g u).withRegs (f.setDest dest c)

theorem RegBlind.of_keeps {g : State → State} (h : ∀ u f, g (u.withRegs f) = (g u).withRegs f) : RegBlind g none :=
  fun u => ⟨u.regs.r0, h u⟩

/-- On every register file that holds what that of `s` does in the registers `rs`, the meaning gives one and the same
state but for the registers, of which it writes `dest` only, always with the same cell. -/
def ActsFrom (m : State → Host.Outcome State Fault Refusal) (rs : List Reg) (dest : Option Reg) (s : State) : Prop :=
  ∃ (v : State) (c : RegCell), ∀ f : RegFile, (∀ r ∈ rs, f.get r = s.regs.get r) →
    m (s.withRegs f) = .next (v.withRegs (f.setDest dest c))

section reads

variable {dest : Option Reg} (s : State)

theorem ActsFrom.of_noRead {g : State → State} (hg : RegBlind g dest) : ActsFrom (fun t => .next (g t)) [] dest s := by
  obtain ⟨c, hc⟩ := hg s
  exact ⟨g s, c, fun f _ => congrArg _ (hc f)⟩

theorem ActsFrom.of_read (r : Reg) {g : Nibble → State → State} (hg : ∀ x, RegBlind (g x) dest) :
    ActsFrom (fun t => .next (g (t.regValue r) (t.afterRead r))) [r] dest s := by
  obtain ⟨c, hc⟩ := hg (s.regValue r) (s.afterRead r)
  refine ⟨g (s.regValue r) (s.afterRead r), c, fun f hf => ?_⟩
  obtain ⟨hvalue, hread⟩ := s.read_withRegs f (hf r (List.mem_singleton_self r))
  simp only [hvalue, hread, hc]

theorem ActsFrom.of_readPair (ra rb : Reg) {g : Nibble → Nibble → State → State} (hg : ∀ x y, RegBlind (g x y) dest) :
    ActsFrom (fun t => .next (g (t.regValue ra) (t.pairSecond ra rb) (t.afterPair ra rb)))
      (if ra = rb then [ra] else [ra, rb]) dest s := by
  obtain ⟨c, hc⟩ := hg (s.regValue ra) (s.pairSecond ra rb) (s.afterPair ra rb)
  refine ⟨g (s.regValue ra) (s.pairSecond ra rb) (s.afterPair ra rb), c, fun f hf => ?_⟩
  simp only [mem_pairSources_iff, List.forall_mem_cons] at hf
  obtain ⟨ha, hb, -⟩ := hf
  obtain ⟨hfirst, -⟩ := s.read_withRegs f ha
  obtain ⟨hsecond, hread⟩ := s.readPair_withRegs f ha hb
  simp only [hfirst, hsecond, hread, hc]

end reads

/-- An ALU operation on operands already read looks at no register. -/
theorem regBlind_aluStore (op : AluOp) (ra : Reg) (x y : Nibble) :
    RegBlind (fun u => (u.aluStore op ra x y).next) (some ra) := fun _ => ⟨⟨(alu op x y).result, false⟩, fun _ => rfl⟩

/-- Every instruction acts from its sources and writes its destination only. -/
theorem exec_actsFrom (i : Instr) (s : State) : ActsFrom (exec i) (sources i) (destination i) s := by
  cases i with
  | addR ra rb => exact .of_readPair s ra rb (regBlind_aluStore .add ra)
  | subR ra rb => exact .of_readPair s ra rb (regBlind_aluStore .sub ra)
  | mulR ra rb => exact .of_readPair s ra rb (regBlind_aluStore .mul ra)
  | andR ra rb => exact .of_readPair s ra rb (regBlind_aluStore .and ra)
  | orR ra rb => exact .of_readPair s ra rb (regBlind_aluStore .or ra)
  | xorR ra rb => exact .of_readPair s ra rb (regBlind_aluStore .xor ra)
  | addI ra k => exact .of_read s ra (regBlind_aluStore .add ra · k)
  | subI ra k => exact .of_read s ra (regBlind_aluStore .sub ra · k)
  | mulI ra k => exact .of_read s ra (regBlind_aluStore .mul ra · k)
  | andI ra k => exact .of_read s ra (regBlind_aluStore .and ra · k)
  | orI ra k => exact .of_read s ra (regBlind_aluStore .or ra · k)
  | xorI ra k => exact .of_read s ra (regBlind_aluStore .xor ra · k)
  | cmpR ra rb =>
    exact .of_readPair s ra rb (g := fun x y u => (u.aluCompare x y).next) fun _ _ => .of_keeps fun _ _ => rfl
  | cmpI ra k => exact .of_read s ra (g := fun x u => (u.aluCompare x k).next) fun _ => .of_keeps fun _ _ => rfl
  | movR ra rb => exact .of_read s rb (g := fun x u => (u.writeReg ra x).next) fun x _ => ⟨⟨x, false⟩, fun _ => rfl⟩
  | movI ra k => exact .of_noRead s (g := fun u => (u.writeReg ra k).next) fun _ => ⟨⟨k, false⟩, fun _ => rfl⟩
  | loadR ra rb =>
    exact .of_read s rb (g := fun x u => u.loadFrom ra x) fun x u => ⟨⟨u.busValue x, false⟩, fun _ => rfl⟩
  | loadI ra k => exact .of_noRead s (g := fun u => u.loadFrom ra k) fun u => ⟨⟨u.busValue k, false⟩, fun _ => rfl⟩
  | storeR ra rb => exact .of_readPair s ra rb (g := fun x y u => u.storeTo y x) fun _ _ => .of_keeps fun _ _ => rfl
  | storeI ra k => exact .of_read s ra (g := fun x u => u.storeTo k x) fun _ => .of_keeps fun _ _ => rfl
  | jmpR rb => exact .of_read s rb (g := fun x u => u.jumpTo x) fun _ => .of_keeps fun _ _ => rfl
  | jmpI t => exact .of_noRead s (g := fun u => u.jumpTo t) (.of_keeps fun _ _ => rfl)
  | jzR rb =>
    exact .of_read s rb (g := fun x u => u.branch u.zero x) fun x => .of_keeps fun u f => u.branch_withRegs f _ x
  | jzI t => exact .of_noRead s (g := fun u => u.branch u.zero t) (.of_keeps fun u f => u.branch_withRegs f _ t)
  | jnzR rb =>
    exact .of_read s rb (g := fun x u => u.branch (!u.zero) x) fun x => .of_keeps fun u f => u.branch_withRegs f _ x
  | jnzI t => exact .of_noRead s (g := fun u => u.branch (!u.zero) t) (.of_keeps fun u f => u.branch_withRegs f _ t)
  | jcR rb =>
    exact .of_read s rb (g := fun x u => u.branch u.carry x) fun x => .of_keeps fun u f => u.branch_withRegs f _ x
  | jcI t => exact .of_noRead s (g := fun u => u.branch u.carry t) (.of_keeps fun u f => u.branch_withRegs f _ t)
  | callR rb => exact .of_read s rb (g := fun x u => u.callTo x) fun x => .of_keeps fun u f => u.callTo_withRegs f x
  | callI t => exact .of_noRead s (g := fun u => u.callTo t) (.of_keeps fun u f => u.callTo_withRegs f t)
  | ret => exact .of_noRead s (.of_keeps State.returnFromCall_withRegs)
  | iret => exact .of_noRead s (.of_keeps State.endOfIret_withRegs)
  | nop => exact .of_noRead s (g := State.next) (.of_keeps fun _ _ => rfl)
  | hlt => exact .of_noRead s (g := State.halt) (.of_keeps fun _ _ => rfl)
  | irq n => exact .of_noRead s (g := fun u => (u.requestLine (lineOfImm n)).next) (.of_keeps fun _ _ => rfl)

/-! The tables of R78 and R79. -/

theorem readsExactly_of_sources {rs : List Reg} {forms : List Instr} (hrs : rs.Nodup)
    (h : ∀ i ∈ forms, sources i = rs) : readsExactly rs forms := by
  intro i hi
  rw [entrySources, h i hi]
  exact ⟨hrs, fun _ => Iff.rfl⟩

theorem readsExactly_of_pairSources {ra rb : Reg} {forms : List Instr}
    (h : ∀ i ∈ forms, sources i = if ra = rb then [ra] else [ra, rb]) : readsExactly [ra, rb] forms := by
  intro i hi
  rw [entrySources, h i hi]
  exact ⟨pairSources_nodup ra rb, mem_pairSources_iff ra rb⟩

theorem writesExactly_of_destination {dest : Option Reg} {forms : List Instr}
    (h : ∀ i ∈ forms, destination i = dest) : writesExactly dest forms := fun i hi => ⟨h i hi, h i hi⟩

/-- Settles O19: an instruction acts from its sources, on the state's own register file and on any that agrees there. -/
theorem onlyTheDestinationRegisterChanges : Obligations.OnlyTheDestinationRegisterChanges := by
  refine ⟨fun i s t r ht hr => ?_, fun i s f hf => ?_, fun ra rb k => ⟨?_, ?_, ?_, ?_, ?_, ?_⟩,
    fun _ => ⟨rfl, rfl⟩, rfl, rfl⟩
  · obtain ⟨v, c, hacts⟩ := exec_actsFrom i s
    obtain rfl : v.withRegs (s.regs.setDest (destination i) c) = t :=
      Host.Outcome.next.inj ((hacts s.regs fun _ _ => rfl).symm.trans ht)
    exact s.regs.get_setDest_of_ne c hr
  · obtain ⟨v, c, hacts⟩ := exec_actsFrom i s
    refine ⟨_, _, hacts s.regs fun _ _ => rfl, hacts f hf, rfl, fun r hr => ?_⟩
    exact (f.get_setDest_of_eq c hr).trans (s.regs.get_setDest_of_eq c hr).symm
  · exact readsExactly_of_pairSources (by simp [sources])
  · exact readsExactly_of_sources (List.nodup_singleton ra) (by simp [sources])
  · exact readsExactly_of_sources (List.nodup_singleton rb) (by simp [sources])
  · exact readsExactly_of_sources List.nodup_nil (by simp [sources])
  · exact writesExactly_of_destination (by simp [destination])
  · exact writesExactly_of_destination (by simp [destination])

end Sys2Proof.Machine
end

section
/-! Proofs about the text form (spec/30_encoding.md R80 to R85): the assembler reads back what the formatter prints. -/

namespace Sys2Proof.Machine

/-! Cutting a text into pieces. -/

theorem splitAtChars_cons_of_cut {p : Char → Bool} {c : Char} (hc : p c = true) (t : Text) :
    splitAtChars p (c :: t) = [] :: splitAtChars p t := if_pos hc

theorem splitAtChars_cons_of_not {p : Char → Bool} {c : Char} (hc : p c = false) {t piece : Text}
    {pieces : List Text} (h : splitAtChars p t = piece :: pieces) :
    splitAtChars p (c :: t) = (c :: piece) :: pieces := by
  simp [splitAtChars, hc, h]

/-- Characters that are not cut at stay in front of the first piece. -/
theorem splitAtChars_append {p : Char → Bool} (w : Text) (hw : ∀ c ∈ w, p c = false) {t piece : Text}
    {pieces : List Text} (h : splitAtChars p t = piece :: pieces) :
    splitAtChars p (w ++ t) = (w ++ piece) :: pieces := by
  induction w with
  | nil => exact h
  | cons c cs ih =>
    obtain ⟨hc, hcs⟩ := List.forall_mem_cons.1 hw
    exact splitAtChars_cons_of_not hc (ih hcs)

/-- A text with no character to cut at is one piece. -/
theorem splitAtChars_of_none {p : Char → Bool} (w : Text) (hw : ∀ c ∈ w, p c = false) : splitAtChars p w = [w] := by
  simpa using splitAtChars_append w hw (t := []) rfl

/-- Words with a character to cut at before each but the first are the pieces. -/
theorem splitAtChars_words {p : Char → Bool} {sep : Char} (hsep : p sep = true) (w : Text) (ws : List Text)
    (h : ∀ v ∈ w :: ws, ∀ c ∈ v, p c = false) :
    splitAtChars p (w ++ ws.flatMap fun v => sep :: v) = w :: ws := by
  induction ws generalizing w with
  | nil => simpa using splitAtChars_of_none w (h w (List.mem_singleton_self w))
  | cons v vs ih =>
    obtain ⟨hw, hvs⟩ := List.forall_mem_cons.1 h
    have hrest := splitAtChars_cons_of_cut hsep (v ++ vs.flatMap fun u => sep :: u)
    rw [ih v hvs] at hrest
    simpa using splitAtChars_append w hw hrest

theorem withoutComment_of_none (t : Text) (h : ∀ c ∈ t, c ≠ ';') : withoutComment t = t := by
  induction t with
  | nil => rfl
  | cons c cs ih =>
    obtain ⟨hc, hcs⟩ := List.forall_mem_cons.1 h
    simp [withoutComment, hc, ih hcs]

/-! The words that the formatter prints. -/

/-- A character that no cut of the assembler removes (30_encoding.md R80, R81). -/
def isWordChar (c : Char) : Bool := !isBlankChar c && c != '\n' && c != '|' && c != ';'

/-- A word of the text: it has a character, and only characters that stay. -/
def isWord (t : Text) : Bool := !t.isEmpty && t.all isWordChar

theorem isWord_iff (t : Text) : isWord t = true ↔ t ≠ [] ∧ ∀ c ∈ t, isWordChar c = true := by
  simp [isWord]

theorem isWordChar_iff (c : Char) :
    isWordChar c = true ↔ isBlankChar c = false ∧ c ≠ '\n' ∧ c ≠ '|' ∧ c ≠ ';' := by
  simp [isWordChar, and_assoc]

/-- The characters of words separated by spaces are none of those that end a line, an item or the text of a line. -/
theorem line_char_ne {w : Text} {ws : List Text} (h : ∀ v ∈ w :: ws, isWord v = true) :
    ∀ c ∈ w ++ ws.flatMap fun v => ' ' :: v, c ≠ '\n' ∧ c ≠ '|' ∧ c ≠ ';' := by
  intro c hc
  have hword : ∀ v ∈ w :: ws, c ∈ v → c ≠ '\n' ∧ c ≠ '|' ∧ c ≠ ';' := fun v hv hcv =>
    ((isWordChar_iff c).1 (((isWord_iff v).1 (h v hv)).2 c hcv)).2
  simp only [List.mem_append, List.mem_flatMap, List.mem_cons] at hc
  rcases hc with hc | ⟨v, hv, rfl | hc⟩
  · exact hword w List.mem_cons_self hc
  · decide
  · exact hword v (List.mem_cons_of_mem w hv) hc

theorem wordsOf_words (w : Text) (ws : List Text) (h : ∀ v ∈ w :: ws, isWord v = true) :
    wordsOf (w ++ ws.flatMap fun v => ' ' :: v) = w :: ws := by
  have hsplit : splitAtChars isBlankChar (w ++ ws.flatMap fun v => ' ' :: v) = w :: ws :=
    splitAtChars_words rfl w ws fun v hv c hc => ((isWordChar_iff c).1 (((isWord_iff v).1 (h v hv)).2 c hc)).1
  rw [wordsOf, hsplit, List.filter_eq_self]
  intro v hv
  simpa using ((isWord_iff v).1 (h v hv)).1

/-- A line of words separated by single spaces is one item, these words (30_encoding.md R80, R81). -/
theorem itemsOf_words (w : Text) (ws : List Text) (h : ∀ v ∈ w :: ws, isWord v = true) :
    itemsOf (w ++ ws.flatMap fun v => ' ' :: v) = [w :: ws] := by
  have hchars := line_char_ne h
  have hwords := wordsOf_words w ws h
  generalize (w ++ ws.flatMap fun v => ' ' :: v) = line at hchars hwords ⊢
  have hline : splitAtChars (fun c => c == '\n') line = [line] :=
    splitAtChars_of_none line fun c hc => beq_eq_false_iff_ne.2 (hchars c hc).1
  have hitem : splitAtChars (fun c => c == '|') line = [line] :=
    splitAtChars_of_none line fun c hc => beq_eq_false_iff_ne.2 (hchars c hc).2.1
  have hcomment : withoutComment line = line := withoutComment_of_none line fun c hc => (hchars c hc).2.2
  simp [itemsOf, hline, hcomment, hitem, hwords]

theorem isWord_mnemonicText (k : Kind) : isWord (mnemonicText k) = true := by
  cases k <;> rfl

theorem isWord_regText (r : Reg) : isWord (regText r) = true := by
  cases r <;> rfl

theorem isWord_binaryText (n : Nibble) : isWord (binaryText n) = true := by
  revert n
  decide

theorem isWord_irqText (n : Nibble) : isWord (irqText n) = true := by
  revert n
  decide

theorem isWord_bracketed {t : Text} (h : isWord t = true) : isWord (bracketed t) = true := by
  obtain ⟨-, hchars⟩ := (isWord_iff t).1 h
  refine (isWord_iff _).2 ⟨List.cons_ne_nil _ _, fun c hc => ?_⟩
  simp only [bracketed, List.cons_append, List.mem_cons, List.mem_append, List.not_mem_nil, or_false] at hc
  rcases hc with rfl | hc | rfl
  · decide
  · exact hchars c hc
  · decide

theorem isWord_operandTexts (i : Instr) : ∀ t ∈ operandTexts i, isWord t = true := by
  cases i <;> simp [operandTexts, isWord_regText, isWord_binaryText, isWord_irqText, isWord_bracketed]

theorem itemsOf_format (i : Instr) : itemsOf (format i) = [mnemonicText i.kind :: operandTexts i] :=
  itemsOf_words _ _ (List.forall_mem_cons.2 ⟨isWord_mnemonicText _, isWord_operandTexts i⟩)

/-! The operands. -/

theorem parseOperand_regText (r : Reg) : parseOperand (regText r) = .ok (.reg r) := by
  cases r <;> rfl

theorem parseOperand_binaryText (n : Nibble) : parseOperand (binaryText n) = .ok (.literal n) := by
  revert n
  decide

theorem parseOperand_irqText {n : Nibble} (h : n.toNat < 4) : parseOperand (irqText n) = .ok (.literal n) := by
  revert n
  decide

theorem parseOperand_memReg (r : Reg) : parseOperand (bracketed (regText r)) = .ok (.memReg r) := by
  cases r <;> rfl

theorem parseOperand_memLiteral (n : Nibble) : parseOperand (bracketed (binaryText n)) = .ok (.memLiteral n) := by
  revert n
  decide

theorem parseOperands_one {t : Text} {o : OperandShape} (h : parseOperand t = .ok o) : parseOperands [t] = .ok [o] := by
  simp [parseOperands, h]

theorem parseOperands_two {t u : Text} {o q : OperandShape} (ht : parseOperand t = .ok o)
    (hu : parseOperand u = .ok q) : parseOperands [t, u] = .ok [o, q] := by
  simp [parseOperands, ht, hu]

/-! An instruction's line. -/

theorem kindOfText_mnemonicText (k : Kind) : kindOfText (mnemonicText k) = some k := by
  cases k <;> rfl

theorem labelDeclared_mnemonicText (k : Kind) : labelDeclared (mnemonicText k) = none := by
  cases k <;> rfl

/-- The formatter prints as many operands as the mnemonic has (30_encoding.md R81). -/
theorem operandTexts_length (i : Instr) : (operandTexts i).length = operandCount i.kind := by
  cases i <;> rfl

/-- The operands that the formatter prints are read as shapes that build the instruction (30_encoding.md R82, R84). -/
theorem parseOperands_operandTexts (i : Instr) (h : i.wellFormed = true) :
    ∃ os, parseOperands (operandTexts i) = .ok os ∧ buildInstr i.kind os = .ok (.complete i) := by
  cases i with
  | nop | ret | iret | hlt => exact ⟨[], rfl, rfl⟩
  | addR ra rb | subR ra rb | mulR ra rb | andR ra rb | orR ra rb | xorR ra rb | cmpR ra rb | movR ra rb =>
    exact ⟨_, parseOperands_two (parseOperand_regText ra) (parseOperand_regText rb), rfl⟩
  | addI ra k | subI ra k | mulI ra k | andI ra k | orI ra k | xorI ra k | cmpI ra k | movI ra k =>
    exact ⟨_, parseOperands_two (parseOperand_regText ra) (parseOperand_binaryText k), rfl⟩
  | loadR ra rb => exact ⟨_, parseOperands_two (parseOperand_regText ra) (parseOperand_memReg rb), rfl⟩
  | loadI ra k => exact ⟨_, parseOperands_two (parseOperand_regText ra) (parseOperand_memLiteral k), rfl⟩
  | storeR ra rb => exact ⟨_, parseOperands_two (parseOperand_memReg rb) (parseOperand_regText ra), rfl⟩
  | storeI ra k => exact ⟨_, parseOperands_two (parseOperand_memLiteral k) (parseOperand_regText ra), rfl⟩
  | jmpR rb | jzR rb | jnzR rb | jcR rb | callR rb => exact ⟨_, parseOperands_one (parseOperand_regText rb), rfl⟩
  | jmpI t | jzI t | jnzI t | jcI t | callI t => exact ⟨_, parseOperands_one (parseOperand_binaryText t), rfl⟩
  | irq n =>
    have hn : n.toNat < 4 := of_decide_eq_true h
    exact ⟨_, parseOperands_one (parseOperand_irqText hn), if_pos hn⟩

theorem parseInstr_operandTexts (i : Instr) (h : i.wellFormed = true) :
    parseInstr (mnemonicText i.kind) (operandTexts i) = .ok (.complete i) := by
  obtain ⟨os, hos, hbuild⟩ := parseOperands_operandTexts i h
  simp [parseInstr, kindOfText_mnemonicText, operandTexts_length, hos, hbuild]

theorem parseItems_format (i : Instr) (h : i.wellFormed = true) :
    parseItems (itemsOf (format i)) 0 [] = .ok ([.complete i], []) := by
  rw [itemsOf_format]
  simp [parseItems, takeLabels, labelDeclared_mnemonicText, parseInstr_operandTexts i h]

/-- The assembler turns the printed form of an instruction into the instruction's word (30_encoding.md R85). -/
theorem assemble_format (i : Instr) (h : i.wellFormed = true) :
    assemble (format i) = .ok { words := [encode i], labels := [] } := by
  simp [assemble, parseItems_format i h, resolveAll]

/-- Settles O6: a legal word is the encoding of its instruction, and the printed form assembles to that; the written-out
texts by evaluating the formatter and the assembler. -/
theorem assembleOfFormatIsTheWord : Obligations.AssembleOfFormatIsTheWord := by
  refine ⟨fun w i hw => ?_, ?_, ?_, rfl, ?_, rfl⟩
  · obtain ⟨hencode, hwf⟩ := encode_decode hw
    rw [assemble_format i hwf, hencode]
  · simp only [List.forall_mem_cons, List.not_mem_nil, false_imp_iff, implies_true, and_true]
    and_intros <;> rfl
  · simp only [List.forall_mem_cons]
    exact ⟨rfl, rfl, rfl, rfl, rfl, rfl, List.forall_mem_nil _⟩
  · simp only [List.forall_mem_cons]
    exact ⟨⟨_, rfl⟩, ⟨_, rfl⟩, ⟨_, rfl⟩, ⟨_, rfl⟩, ⟨_, rfl⟩, ⟨_, rfl⟩, List.forall_mem_nil _⟩

end Sys2Proof.Machine
end

section
/-! Proofs about the ALU (spec/40_alu.md): the adder as a chain of full adders, what the two forms of each operation
leave behind, and `cmp`, which writes the flags only. -/

namespace Sys2Proof.Machine

/-! The adder (40_alu.md R87). -/

/-- The carry into bit `i` of the chain of full adders. -/
def adderCarry (a b : Nibble) (cin : Bool) : Nat → Bool
  | 0 => cin
  | i + 1 => fullAdderCarry (a.getLsbD i) (b.getLsbD i) (adderCarry a b cin i)

/-- The adder's carry-out is the carry out of bit 3. -/
theorem adder_carryOut (a b : Nibble) (cin : Bool) : (adder a b cin).2 = adderCarry a b cin 4 := rfl

theorem nibbleOfBits_getLsbD (b3 b2 b1 b0 : Bool) :
    (nibbleOfBits b3 b2 b1 b0).getLsbD 0 = b0 ∧ (nibbleOfBits b3 b2 b1 b0).getLsbD 1 = b1 ∧
      (nibbleOfBits b3 b2 b1 b0).getLsbD 2 = b2 ∧ (nibbleOfBits b3 b2 b1 b0).getLsbD 3 = b3 := by
  revert b3 b2 b1 b0
  decide

/-- Each bit of the adder's sum is the sum bit of its full adder. -/
theorem adder_getLsbD (a b : Nibble) (cin : Bool) {i : Nat} (hi : i < 4) :
    (adder a b cin).1.getLsbD i = fullAdderSum (a.getLsbD i) (b.getLsbD i) (adderCarry a b cin i) := by
  obtain ⟨h0, h1, h2, h3⟩ := nibbleOfBits_getLsbD
    (fullAdderSum (a.getLsbD 3) (b.getLsbD 3) (adderCarry a b cin 3))
    (fullAdderSum (a.getLsbD 2) (b.getLsbD 2) (adderCarry a b cin 2))
    (fullAdderSum (a.getLsbD 1) (b.getLsbD 1) (adderCarry a b cin 1))
    (fullAdderSum (a.getLsbD 0) (b.getLsbD 0) cin)
  match i with
  | 0 => exact h0
  | 1 => exact h1
  | 2 => exact h2
  | 3 => exact h3

/-- A nibble made of a number keeps what the number is modulo 16. -/
theorem ofNat_mod_sixteen (n : Nat) : BitVec.ofNat 4 (n % 16) = BitVec.ofNat 4 n :=
  BitVec.eq_of_toNat_eq (by simp)

/-- Settles O7: the sum and the carry-out are the adder's arithmetic laws, and the carries of the chain are
`adderCarry`. -/
theorem adderIsAdditionOfNibbles : Obligations.AdderIsAdditionOfNibbles := by
  intro a b cin
  refine ⟨?_, adder_carry a b cin, adderCarry a b cin, rfl, (adder_carryOut a b cin).symm,
    fun i hi => ⟨adder_getLsbD a b cin hi, rfl⟩⟩
  calc (adder a b cin).1
      = a + b + BitVec.ofNat 4 cin.toNat := adder_sum a b cin
    _ = BitVec.ofNat 4 ((a.toNat + b.toNat + cin.toNat) % 16) := by simp [ofNat_mod_sixteen, BitVec.ofNat_add]

/-! The two forms of an operation (40_alu.md R88). -/

/-- The machine's `next` is the statements' `wentOn`. -/
theorem State.next_eq_wentOn (s : State) : s.next = s.wentOn := by
  simp only [State.next, State.wentOn, pcIncrement_eq]

/-- Loading an ALU operation's result, going on: the statements' `computed`. -/
theorem State.aluStore_next (s : State) (op : AluOp) (ra : Reg) (a b : Nibble) (n : Nat) :
    (State.aluStore { s with draws := n } op ra a b).next =
      s.computed op ra a b n (alu op a b).result (alu op a b).carry (alu op a b).zero :=
  State.next_eq_wentOn _

/-- An operation of the ALU other than `cmp`, in the register form. -/
theorem exec_aluRegForm (op : AluOp) (hop : op ≠ .cmp) (ra rb : Reg) (s : State) :
    exec (aluRegForm op ra rb) s = .next (s.aluReg op ra rb) := by
  cases op with
  | cmp => exact absurd rfl hop
  | add | sub | mul | and | or | xor => rfl

/-- An operation of the ALU other than `cmp`, in the immediate form. -/
theorem exec_aluImmForm (op : AluOp) (hop : op ≠ .cmp) (ra : Reg) (k : Nibble) (s : State) :
    exec (aluImmForm op ra k) s = .next (s.aluImm op ra k) := by
  cases op with
  | cmp => exact absurd rfl hop
  | add | sub | mul | and | or | xor => rfl

/-- Both forms of an operation leave what the operation gives of their operands: it is enough to know the ALU's result
and flags as a function of two nibbles. -/
theorem aluForms_of_alu {op : AluOp} {f : Nibble → Nibble → Nibble × Bool × Bool} (hop : op ≠ .cmp)
    (hf : ∀ a b, alu op a b = ⟨(f a b).1, (f a b).2.1, (f a b).2.2⟩) :
    aluForms op (aluRegForm op) (aluImmForm op) f := by
  constructor
  · intro ra rb s
    rw [exec_aluRegForm op hop, State.aluReg, State.afterPair, State.aluStore_next, hf]
  · intro ra k s
    rw [exec_aluImmForm op hop, State.aluImm, State.afterRead, State.aluStore_next, hf]

/-! The operations with a result (40_alu.md R90 to R95). -/

theorem ofNat_add_toNat (a b : Nibble) : BitVec.ofNat 4 ((a.toNat + b.toNat) % 16) = a + b := by
  simp [ofNat_mod_sixteen, BitVec.ofNat_add]

theorem ofNat_mul_toNat (a b : Nibble) : BitVec.ofNat 4 ((a.toNat * b.toNat) % 16) = a * b := by
  simp [ofNat_mod_sixteen, BitVec.ofNat_mul]

theorem ofInt_sub_toNat (a b : Nibble) : BitVec.ofInt 4 ((a.toNat : Int) - b.toNat) = a - b := by
  simp [Int.sub_eq_add_neg, BitVec.ofInt_add, BitVec.ofInt_neg, BitVec.sub_eq_add_neg]

theorem aluOr_eq (a b : Nibble) : aluOr a b = ⟨a ||| b, false, decide (a = 0 ∧ b = 0)⟩ :=
  congrArg (AluResult.mk _ _) (decide_eq_decide.2 BitVec.or_eq_zero_iff)

theorem aluXor_eq (a b : Nibble) : aluXor a b = ⟨a ^^^ b, false, decide (a = b)⟩ :=
  congrArg (AluResult.mk _ _) (decide_eq_decide.2 BitVec.xor_eq_zero_iff)

/-- Settles O9 by the adder's law for the sum and both flags. -/
theorem addResult : Obligations.AddResult :=
  aluForms_of_alu (op := .add) (by decide) fun a b => by
    rw [ofNat_add_toNat]
    exact aluAdd_eq a b

/-- Settles O10: the raw carry-out of `a + ~b + 1` is the absence of a borrow. -/
theorem subResult : Obligations.SubResult :=
  aluForms_of_alu (op := .sub) (by decide) fun a b => by
    rw [ofInt_sub_toNat]
    exact aluSub_eq a b

/-- Settles O11: the flags are of the full product, the result of its low nibble. -/
theorem mulResult : Obligations.MulResult :=
  aluForms_of_alu (op := .mul) (by decide) fun a b => by
    rw [ofNat_mul_toNat]
    exact aluMul_eq a b

/-- Settles O12: the ALU's `and` is the statement's function as it stands. -/
theorem andResult : Obligations.AndResult :=
  aluForms_of_alu (op := .and) (by decide) fun _ _ => rfl

/-- Settles O13: a bitwise OR is zero exactly when both operands are. -/
theorem orResult : Obligations.OrResult :=
  aluForms_of_alu (op := .or) (by decide) aluOr_eq

/-- Settles O14: a bitwise exclusive OR is zero exactly when the operands are equal. -/
theorem xorResult : Obligations.XorResult :=
  aluForms_of_alu (op := .xor) (by decide) aluXor_eq

/-! Compare (40_alu.md R96). -/

/-- A compare, going on: the flags of a subtract, and nothing else. -/
theorem State.aluCompare_next (s : State) (a b : Nibble) :
    (s.aluCompare a b).next =
      State.wentOn { s with carry := decide (a.toNat < b.toNat), zero := decide (a = b) } := by
  have hflags : alu .cmp a b = ⟨a - b, decide (a.toNat < b.toNat), decide (a = b)⟩ := aluSub_eq a b
  rw [State.next_eq_wentOn, State.aluCompare, hflags]

theorem exec_cmpR (ra rb : Reg) (s : State) :
    exec (.cmpR ra rb) s =
      .next (State.wentOn
        { s with
          carry := decide ((s.regValue ra).toNat < (s.pairSecond ra rb).toNat)
          zero := decide (s.regValue ra = s.pairSecond ra rb), draws := s.pairDraws ra rb }) :=
  congrArg _ ((s.afterPair ra rb).aluCompare_next (s.regValue ra) (s.pairSecond ra rb))

theorem exec_cmpI (ra : Reg) (k : Nibble) (s : State) :
    exec (.cmpI ra k) s =
      .next (State.wentOn
        { s with
          carry := decide ((s.regValue ra).toNat < k.toNat), zero := decide (s.regValue ra = k)
          draws := s.regDraws ra }) :=
  congrArg _ ((s.afterRead ra).aluCompare_next (s.regValue ra) k)

/-- With X empty, the second operand is its register's value while it does not float, also when it is the first
operand's register. -/
theorem State.pairSecond_of_settled (s : State) (ra rb : Reg) (hx : s.executeL = none)
    (hb : (s.regs.get rb).floating = false) : s.pairSecond ra rb = (s.regs.get rb).val := by
  by_cases h : ra = rb
  · subst h
    rw [(s.pairRead_same ra).1, (s.regRead_of_settled ra hx hb).1]
  · exact (s.pairRead_of_settled hx h hb).1

/-- With X empty, a compare of registers that do not float leaves the registers and X alone and sets the flags that
their values give. -/
theorem exec_cmpR_of_settled {ra rb : Reg} {s t : State} (hx : s.executeL = none)
    (ha : (s.regs.get ra).floating = false) (hb : (s.regs.get rb).floating = false)
    (ht : exec (.cmpR ra rb) s = .next t) :
    t.executeL = none ∧ t.regs = s.regs ∧
      t.carry = decide ((s.regs.get ra).val.toNat < (s.regs.get rb).val.toNat) ∧
      t.zero = decide ((s.regs.get ra).val = (s.regs.get rb).val) := by
  rw [exec_cmpR, (s.regRead_of_settled ra hx ha).1, s.pairSecond_of_settled ra rb hx hb] at ht
  cases ht
  exact ⟨rfl, rfl, rfl, rfl⟩

/-- Settles O15: the two forms are the compare's rule, and the second compare reads the registers that the first one
read. -/
theorem cmpResult : Obligations.CmpResult := by
  refine ⟨exec_cmpR, exec_cmpI, fun ra rb s t u hx ha hb ht hu => ?_⟩
  obtain ⟨htx, htregs, htcarry, htzero⟩ := exec_cmpR_of_settled hx ha hb ht
  rw [← htregs] at ha hb
  obtain ⟨-, huregs, hucarry, huzero⟩ := exec_cmpR_of_settled htx ha hb hu
  rw [htregs] at huregs hucarry huzero
  exact ⟨huregs, hucarry.trans htcarry.symm, huzero.trans htzero.symm⟩

end Sys2Proof.Machine
end

section
/-! Proofs about data movement (spec/41_data_movement.md): the full next state of `mov`, `load` and `store`, and that a
store is seen at its own bus address only. -/

namespace Sys2Proof.Machine

/-! The three endings (41_data_movement.md R99 to R101), as the statements write them. -/

/-- A register write that goes on (R99). -/
theorem State.writeReg_next (s : State) (r : Reg) (v : Nibble) :
    (s.writeReg r v).next = State.wentOn { s with regs := s.regs.set r ⟨v, false⟩ } :=
  State.next_eq_wentOn _

/-- A load at a bus address already formed (R100). -/
theorem State.loadFrom_eq (s : State) (ra : Reg) (ea : Nibble) :
    s.loadFrom ra ea =
      State.wentOn { s with regs := s.regs.set ra ⟨s.busValue ea, false⟩, keys := s.keysAfterRead ea } :=
  State.next_eq_wentOn _

/-- A store at a bus address already formed (R101). -/
theorem State.storeTo_eq (s : State) (ea d : Nibble) :
    s.storeTo ea d =
      State.wentOn { s with ram := s.ramAfterWrite ea d, display := s.displayAfterWrite ea d } :=
  State.next_eq_wentOn _

/-- Settles O20: both forms write the destination and go on; the register form has read its source before. -/
theorem movResult : Obligations.MovResult :=
  ⟨fun ra rb s => congrArg _ ((s.afterRead rb).writeReg_next ra (s.regValue rb)),
    fun ra k s => congrArg _ (s.writeReg_next ra k)⟩

/-- Settles O21: both forms load from their address; reading the address register leaves the bus and the keys alone. -/
theorem loadResult : Obligations.LoadResult :=
  ⟨fun ra rb s => congrArg _ ((s.afterRead rb).loadFrom_eq ra (s.regValue rb)),
    fun ra k s => congrArg _ (s.loadFrom_eq ra k)⟩

/-! What a store leaves at the other bus addresses (20_memory.md R43, R45). -/

/-- Two bus addresses that decode to the same RAM cell are the same. -/
theorem busRegion_ram_inj {p : Params} {a b : Nibble} {i : Nat} (ha : busRegion p a = .ram i)
    (hb : busRegion p b = .ram i) : a = b :=
  BitVec.eq_of_toNat_eq ((busRegion_ram ha).2.trans (busRegion_ram hb).2.symm)

/-- A bus write at another address leaves the RAM cell that an address names. -/
theorem State.ramCell_of_ramAfterWrite {s t : State} {ea d a : Nibble} {i : Nat}
    (hram : t.ram = s.ramAfterWrite ea d) (hne : a ≠ ea) (ha : busRegion s.cfg a = .ram i) :
    t.ramCell i = s.ramCell i := by
  by_cases h : ∃ j, busRegion s.cfg ea = .ram j
  · obtain ⟨j, hj⟩ := h
    have hij : i ≠ j := fun hij => hne (busRegion_ram_inj ha (hij ▸ hj))
    rw [s.ramAfterWrite_of_ram ea d j hj] at hram
    rw [State.ramCell_of_write hram, if_neg hij]
  · rw [s.ramAfterWrite_of_not_ram ea d (not_exists.1 h)] at hram
    rw [State.ramCell, State.ramCell, hram]

/-- A state that differs from another by a bus write, and in nothing else that the bus shows, shows the same at every
other bus address: at ROM since no write reaches it, at RAM since another address names another cell. -/
theorem State.peek_of_ramAfterWrite {s t : State} {ea d : Nibble} (hcfg : t.cfg = s.cfg) (hrom : t.rom = s.rom)
    (hram : t.ram = s.ramAfterWrite ea d) (a : Nibble) (hne : a ≠ ea) : t.peek a = s.peek a := by
  cases ha : busRegion s.cfg a with
  | rom i =>
    rw [s.peek_of_rom a i ha, t.peek_of_rom a i (hcfg ▸ ha), State.romCell, State.romCell, hrom]
  | ram i =>
    rw [s.peek_of_ram a i ha, t.peek_of_ram a i (hcfg ▸ ha), State.ramCell_of_ramAfterWrite hram hne ha]
  | keyStatus | keyData | charOut | unmapped =>
    rw [s.peek_of_other a (by simp [ha]) (by simp [ha]), t.peek_of_other a (by simp [hcfg, ha]) (by simp [hcfg, ha])]

/-- Settles O22: both forms store at their address, and the bus shows the write nowhere else. -/
theorem storeResult : Obligations.StoreResult :=
  ⟨fun ra rb s => ⟨_, rfl, (s.afterPair ra rb).storeTo_eq (s.pairSecond ra rb) (s.regValue ra),
      State.peek_of_ramAfterWrite rfl rfl rfl⟩,
    fun ra k s => ⟨_, rfl, (s.afterRead ra).storeTo_eq k (s.regValue ra),
      State.peek_of_ramAfterWrite rfl rfl rfl⟩⟩

end Sys2Proof.Machine
end

section
/-! Proofs about control transfer (spec/42_control_transfer.md R102 to R111): the full next state of the jumps, `call`
and `ret`, and that `ret` undoes `call`. -/

namespace Sys2Proof.Machine

/-! The ends of a transfer (42_control_transfer.md R104, R119), as the statements write them. -/

theorem State.jumpTo_eq_wentTo (s : State) (t : Nibble) : s.jumpTo t = s.wentTo t := rfl

theorem State.raise_eq_faultedAt (s : State) (c : FaultCode) : s.raise c = s.faultedAt s.ownPc c := rfl

/-- A gated transfer (R107 to R109) whose gate is the truth of a condition. -/
theorem State.branch_eq_ite (s : State) {b : Bool} {p : Prop} [Decidable p] (h : b = true ↔ p) (t : Nibble) :
    s.branch b t = if p then s.wentTo t else s.wentOn := by
  rcases s.branch_cases b t with ⟨hb, hs⟩ | ⟨hb, hs⟩
  · rw [hs, if_pos (h.1 hb), State.jumpTo_eq_wentTo]
  · rw [hs, if_neg (h.not.1 (by simp [hb])), State.next_eq_wentOn]

/-- `call` on a target (R110), its return address as a sum. -/
theorem State.callTo_eq_ite (s : State) (t : Nibble) :
    s.callTo t =
      if s.callStack.length < s.cfg.callDepth then
        State.wentTo { s with callStack := (s.ownPc + 1) :: s.callStack } t
      else s.faultedAt s.ownPc .stackOverflow := by
  rcases s.callTo_cases t with ⟨hroom, hs⟩ | ⟨hfull, hs⟩
  · rw [hs, if_pos hroom, pcIncrement_eq, State.jumpTo_eq_wentTo, State.push]
  · rw [hs, if_neg (by omega), State.raise_eq_faultedAt]

/-! The two forms of a transfer (R102). -/

/-- Both forms of a transfer do to their target what one function of it does: it is enough to rewrite that function. -/
theorem transferForms_of_eq {regForm : Reg → Instr} {absForm : Nibble → Instr} {f g : Nibble → State → State}
    (hreg : ∀ rb s, exec (regForm rb) s = .next (g (s.regValue rb) (s.afterRead rb)))
    (habs : ∀ t s, exec (absForm t) s = .next (g t s)) (hg : ∀ t s, g t s = f t s) :
    transferForms regForm absForm f := by
  constructor
  · intro rb s
    rw [hreg, hg, State.afterRead]
  · intro t s
    rw [habs, hg]

/-- Settles O29: a jump ends in the squashing transfer. -/
theorem jmpResult : Obligations.JmpResult :=
  transferForms_of_eq (fun _ _ => rfl) (fun _ _ => rfl) fun t s => s.jumpTo_eq_wentTo t

/-- Settles O30: each condition is the gate of its jump's transfer. -/
theorem conditionalJumpResults : Obligations.ConditionalJumpResults := by
  refine ⟨?jz, ?jnz, ?jc⟩
  case jz => exact transferForms_of_eq (fun _ _ => rfl) (fun _ _ => rfl) fun t s => s.branch_eq_ite Iff.rfl t
  case jnz =>
    exact transferForms_of_eq (fun _ _ => rfl) (fun _ _ => rfl) fun t s =>
      s.branch_eq_ite (Bool.not_eq_true' s.zero).to_iff t
  case jc => exact transferForms_of_eq (fun _ _ => rfl) (fun _ _ => rfl) fun t s => s.branch_eq_ite Iff.rfl t

/-- Settles O31 by the two cases of a call on a target. -/
theorem callResult : Obligations.CallResult :=
  transferForms_of_eq (fun _ _ => rfl) (fun _ _ => rfl) fun t s => s.callTo_eq_ite t

/-! Return (R111). -/

theorem exec_ret_of_inside {s : State} {t : Nibble} {rest : List Nibble} (hstack : s.callStack = t :: rest)
    (ht : t.toNat < s.progLen) : exec .ret s = .next (State.wentTo { s with callStack := rest } t) := by
  have hret : s.returnFromCall = State.wentTo { s with callStack := rest } t := by
    simp [State.returnFromCall, State.pop, State.jumpTo_eq_wentTo, hstack, ht]
  exact congrArg _ hret

theorem exec_ret_of_outside {s : State} {t : Nibble} {rest : List Nibble} (hstack : s.callStack = t :: rest)
    (ht : s.progLen ≤ t.toNat) : exec .ret s = .next (s.faultedAt s.ownPc .returnOutOfRange) := by
  have hret : s.returnFromCall = s.raise .returnOutOfRange := by simp [State.returnFromCall, hstack, ht]
  exact congrArg _ hret

theorem exec_ret_of_empty {s : State} (hstack : s.callStack = []) :
    exec .ret s = .next (s.faultedAt s.ownPc .stackUnderflow) := by
  have hret : s.returnFromCall = s.raise .stackUnderflow := by simp [State.returnFromCall, hstack]
  exact congrArg _ hret

/-- Settles O32: one rule for each case of the newest entry. -/
theorem retResult : Obligations.RetResult :=
  ⟨fun _ _ _ => exec_ret_of_inside, fun _ _ _ => exec_ret_of_outside, fun _ => exec_ret_of_empty⟩

/-! `ret` right after `call` (R110, R111). -/

/-- Under Step the executing instruction's own address is the pc (00_scope.md R12). -/
theorem State.ownPc_of_empty (s : State) (hx : s.executeL = none) : s.ownPc = s.pc := by
  simp [State.ownPc, hx]

/-- Either form of `call`, under Step with room on the stack, leaves the target in the pc and the pc after the call on
the stack; reading a register may have drawn a free value. -/
theorem exec_call_of_room {s : State} {call : Instr} {k : Nibble}
    (hcall : call = .callI k ∨ ∃ rb, call = .callR rb ∧ s.regValue rb = k) (hx : s.executeL = none)
    (hroom : s.callStack.length < s.cfg.callDepth) :
    ∃ n, exec call s =
      .next (State.wentTo { s with draws := n, callStack := (s.pc + 1) :: s.callStack } k) := by
  obtain ⟨hreg, habs⟩ := callResult
  rw [← s.ownPc_of_empty hx]
  rcases hcall with rfl | ⟨rb, rfl, rfl⟩
  · exact ⟨s.draws, (habs k s).trans (congrArg _ (if_pos hroom))⟩
  · exact ⟨s.regDraws rb, (hreg rb s).trans (congrArg _ (if_pos hroom))⟩

/-- Settles O33: the call pushes the entry that the return pops, and neither writes anything else that the architectural
view shows. -/
theorem retComesBackFromCall : Obligations.RetComesBackFromCall := by
  intro s call k hcall hx hroom hinside
  obtain ⟨n, ht⟩ := exec_call_of_room hcall hx hroom
  exact ⟨_, _, ht, rfl, exec_ret_of_inside rfl hinside, rfl, rfl, rfl⟩

end Sys2Proof.Machine
end

section
/-! Proofs about the system instructions (spec/43_system.md R112 to R117): the full next state of `nop` and `hlt`, the
request of `irq`, `iret` outside a handler, and a Step that finds END or an illegal word. -/

namespace Sys2Proof.Machine

/-! The end of a stopped core, and where an instruction's own address stands (00_scope.md R12). -/

theorem State.halt_eq_stoppedAt (s : State) : s.halt = s.stoppedAt s.ownPc := rfl

/-- Under Tick the executing instruction's own address is that of X's entry. -/
theorem State.ownPc_of_entry (s : State) (x : ExecuteEntry) (hx : s.executeL = some x) : s.ownPc = x.pc := by
  simp [State.ownPc, hx]

/-- Settles O34: `nop` is only the machine's `next`, and `hlt` only its `halt`. -/
theorem nopAndHltResult : Obligations.NopAndHltResult := by
  refine ⟨fun s => ⟨?nop, ?hlt⟩, State.ownPc_of_entry, State.ownPc_of_empty⟩
  case nop => exact congrArg Host.Outcome.next s.next_eq_wentOn
  case hlt => exact congrArg Host.Outcome.next s.halt_eq_stoppedAt

/-! The request of an interrupt line (43_system.md R114). -/

/-- The set of one line holds that line only. -/
theorem lineBit_getLsbD (i : BitVec 2) (j : Nat) : (lineBit i).getLsbD j = decide (j = i.toNat) := by
  have hi : i.toNat < 4 := i.isLt
  calc (lineBit i).getLsbD j
      = (BitVec.twoPow 4 i.toNat).getLsbD j := by rw [lineBit, BitVec.twoPow_eq]
    _ = decide (j = i.toNat) := by simp [BitVec.getLsbD_twoPow, hi, eq_comm]

/-- A number that fits the two bits of a line is the line it names (30_encoding.md R70). -/
theorem lineOfImm_toNat {n : Nibble} (h : n.toNat < 4) : (lineOfImm n).toNat = n.toNat := by
  simp [lineOfImm, BitVec.extractLsb'_toNat, Nat.mod_eq_of_lt h]

/-- A request adds its line to those requested. -/
theorem State.requestLine_status_getLsbD (s : State) (i : BitVec 2) (j : Nat) :
    (s.requestLine i).intr.status.getLsbD j = (s.intr.status.getLsbD j || decide (j = i.toNat)) := by
  rw [State.requestLine_intr, BitVec.getLsbD_or, lineBit_getLsbD]

theorem exec_irq (n : Nibble) (s : State) : exec (.irq n) s = .next (s.requestLine (lineOfImm n)).wentOn :=
  congrArg _ (State.next_eq_wentOn _)

/-- Settles O35: the next state is that of the request, gone on, and the line requested is `n` itself since only the
numbers 0 to 3 are carried by a word. -/
theorem irqSetsItsStatusBit : Obligations.IrqSetsItsStatusBit := by
  intro n s hwf
  have hn : n.toNat < 4 := of_decide_eq_true hwf
  refine ⟨_, exec_irq n s, fun j _ => ?_, rfl⟩
  have hbit := s.requestLine_status_getLsbD (lineOfImm n) j
  rwa [lineOfImm_toNat hn] at hbit

/-- Settles O37: the fault of `iret` is taken at its own address. -/
theorem iretOutsideHandlerFaults : Obligations.IretOutsideHandlerFaults := by
  intro s h
  rw [exec_iret_of_outside s h, s.raise_eq_faultedAt]

/-! The host's `step` (70_reset_and_hazards.md R141, R151) at END and at an illegal word (43_system.md R116, R117). -/

/-- The host's `step` of a core that may step, answered, is a Step. -/
theorem step_of_hostStep {s : State} {rest : List Event} (he : s.events = .step :: rest) (hs : s.mayStep) :
    step s = stepOnce exec { s with events := rest, reply := .ok } := by
  rw [step_of_event s _ _ he]
  exact if_pos ((State.canStep_iff _).2 hs)

/-- With no interrupt pending, that Step performs what is fetched at the pc. -/
theorem step_of_hostStep_of_no_irq {s : State} {rest : List Event} (he : s.events = .step :: rest) (hs : s.mayStep)
    (hirq : s.irqPending = false) :
    step s =
      perform exec (decodeFetched (s.fetch s.pc)) (State.settleTick { s with events := rest, reply := .ok }) := by
  rw [step_of_hostStep he hs]
  exact stepOnce_of_no_irq exec _ hirq

theorem perform_endMark (ex : Meaning) (s : State) : perform ex .endMark s = .next (s.stoppedAt s.ownPc) :=
  congrArg Host.Outcome.next s.halt_eq_stoppedAt

theorem perform_illegal (ex : Meaning) (w : Word) (s : State) :
    perform ex (.illegal w) s = .next (s.faultedAt s.ownPc .unknownOpcode) :=
  congrArg Host.Outcome.next (s.raise_eq_faultedAt .unknownOpcode)

/-- Settles O46: the fetch is END past the program and the word inside it, and under Step the address that a halt and a
fault keep is the pc. -/
theorem endHaltsAndIllegalWordFaults : Obligations.EndHaltsAndIllegalWordFaults := by
  have hown : ∀ (s : State) (rest : List Event), s.mayStep →
      (State.settleTick { s with events := rest, reply := .ok }).ownPc = s.pc :=
    fun _ _ ⟨_, _, _, _, hx⟩ => State.ownPc_of_empty _ hx
  refine ⟨fun s rest he hs hirq hpast => ?atEnd, fun s rest w he hs hirq hinside hw => ?illegalWord⟩
  case atEnd =>
    rw [step_of_hostStep_of_no_irq he hs hirq, s.fetch_past s.pc hpast, decodeFetched, perform_endMark, hown s rest hs]
  case illegalWord =>
    rw [step_of_hostStep_of_no_irq he hs hirq, s.fetch_inside s.pc hinside, decodeFetched, hw, perform_illegal,
      hown s rest hs]

end Sys2Proof.Machine
end

section
/-! Proofs about faults and interrupts (spec/60_exceptions.md R118 to R131): which instructions fault, when an interrupt
is pending, what its entry and the return from it do, and that every instruction and every step has a next state. -/

namespace Sys2Proof.Machine

/-! Which instructions fault (R118 to R120). -/

/-- The fault codes that the instructions of a kind raise (R118). -/
def MayRaise (k : Kind) (c : FaultCode) : Prop :=
  (k = .call ∧ c = .stackOverflow) ∨ (k = .ret ∧ (c = .stackUnderflow ∨ c = .returnOutOfRange)) ∨
    (k = .iret ∧ c = .iretOutsideHandler)

/-- From `s` to `t` the fault latch is kept, or `t` is the fault that `s` takes with a code of the kind `k`, where
reading a register may have drawn a free value (log 3). -/
def FaultsOnlyAs (k : Kind) (s t : State) : Prop :=
  t.fault = s.fault ∨ ∃ c n, MayRaise k c ∧ t = State.raise { s with draws := n } c

/-- A gated transfer (42_control_transfer.md R107 to R109) does not fault. -/
theorem State.branch_fault (s : State) (b : Bool) (t : Nibble) : (s.branch b t).fault = s.fault := by
  rcases s.branch_cases b t with ⟨-, h⟩ | ⟨-, h⟩ <;> simp [h]

/-- `call` on a target (42 R110) faults with StackOverflow only. -/
theorem State.callTo_faultsOnlyAs (s : State) (n : Nat) (t : Nibble) :
    FaultsOnlyAs .call s (State.callTo { s with draws := n } t) := by
  rcases State.callTo_cases { s with draws := n } t with ⟨-, h⟩ | ⟨-, h⟩
  · exact .inl (by simp [h])
  · exact .inr ⟨.stackOverflow, n, .inl ⟨rfl, rfl⟩, h⟩

/-- `ret` (42 R111) faults with StackUnderflow or ReturnOutOfRange only. -/
theorem State.returnFromCall_faultsOnlyAs (s : State) : FaultsOnlyAs .ret s s.returnFromCall := by
  rcases s.returnFromCall_cases with ⟨_, _, -, -, h⟩ | ⟨_, _, -, -, h⟩ | ⟨-, h⟩
  · exact .inl (by simp [h])
  · exact .inr ⟨.returnOutOfRange, s.draws, .inr (.inl ⟨rfl, .inr rfl⟩), h⟩
  · exact .inr ⟨.stackUnderflow, s.draws, .inr (.inl ⟨rfl, .inl rfl⟩), h⟩

/-- `iret` (43_system.md R115) faults with IretOutsideHandler only. -/
theorem exec_iret_faultsOnlyAs (s : State) : ∃ t, exec .iret s = .next t ∧ FaultsOnlyAs .iret s t := by
  cases h : s.intr.inHandler with
  | true => exact ⟨_, exec_iret_of_inHandler s h, .inl s.returnFromIrq_fault⟩
  | false =>
    exact ⟨_, exec_iret_of_outside s h, .inr ⟨.iretOutsideHandler, s.draws, .inr (.inr ⟨rfl, rfl⟩), rfl⟩⟩

/-- Every instruction keeps the fault latch or faults with a code of its kind. -/
theorem exec_faultsOnlyAs (i : Instr) (s : State) : ∃ t, exec i s = .next t ∧ FaultsOnlyAs i.kind s t := by
  cases i with
  | jzR rb => exact ⟨_, rfl, .inl ((s.afterRead rb).branch_fault s.zero (s.regValue rb))⟩
  | jnzR rb => exact ⟨_, rfl, .inl ((s.afterRead rb).branch_fault (!s.zero) (s.regValue rb))⟩
  | jcR rb => exact ⟨_, rfl, .inl ((s.afterRead rb).branch_fault s.carry (s.regValue rb))⟩
  | jzI t => exact ⟨_, rfl, .inl (s.branch_fault s.zero t)⟩
  | jnzI t => exact ⟨_, rfl, .inl (s.branch_fault (!s.zero) t)⟩
  | jcI t => exact ⟨_, rfl, .inl (s.branch_fault s.carry t)⟩
  | callR rb => exact ⟨_, rfl, s.callTo_faultsOnlyAs (s.regDraws rb) (s.regValue rb)⟩
  | callI t => exact ⟨_, rfl, s.callTo_faultsOnlyAs s.draws t⟩
  | ret => exact ⟨_, rfl, s.returnFromCall_faultsOnlyAs⟩
  | iret => exact exec_iret_faultsOnlyAs s
  | _ => exact ⟨_, rfl, .inl rfl⟩

/-- Settles O38: a fault that was not latched before is one that the instruction's kind raises, and taking it writes the
fault state only. -/
theorem onlyCallRetIretFault : Obligations.OnlyCallRetIretFault := by
  intro i s t hs ht hfault
  obtain ⟨u, hu, hkept | ⟨c, n, hcode, rfl⟩⟩ := exec_faultsOnlyAs i s
  · cases hu.symm.trans ht
    exact absurd (hkept.trans hs) hfault
  · cases hu.symm.trans ht
    exact ⟨hcode, rfl⟩

/-! When an interrupt is pending (R123). -/

/-- A set of lines that is not empty has a line in it. -/
theorem lines_ne_zero_iff (lines : BitVec 4) : lines ≠ 0 ↔ ∃ i, i < 4 ∧ lines.getLsbD i = true := by
  simp [BitVec.eq_of_getLsbD_eq_iff]

theorem State.armed_getLsbD (s : State) (i : Nat) :
    s.armed.getLsbD i = (s.intr.status.getLsbD i && s.intr.mask.getLsbD i) :=
  BitVec.getLsbD_and

theorem State.irqPending_iff (s : State) :
    s.irqPending = true ↔ s.intr.enabled = true ∧ s.intr.inHandler = false ∧ s.armed ≠ 0 := by
  simp [State.irqPending, and_assoc]

/-- Settles O41: some line is armed exactly when the set of armed lines is not empty. -/
theorem irqPendingExactly : Obligations.IrqPendingExactly := by
  intro s
  simp only [s.irqPending_iff, lines_ne_zero_iff, s.armed_getLsbD, Bool.and_eq_true]

/-! Interrupt entry (R125 to R127). -/

/-- The lowest line of a set that is not empty is in the set. -/
theorem getLsbD_lowestLine {lines : BitVec 4} (h : lines ≠ 0) : lines.getLsbD (lowestLine lines).toNat = true := by
  obtain ⟨i, hi, hline⟩ := (lines_ne_zero_iff lines).1 h
  unfold lowestLine
  split_ifs with h0 h1 h2
  · exact h0
  · exact h1
  · exact h2
  · interval_cases i
    · exact absurd hline h0
    · exact absurd hline h1
    · exact absurd hline h2
    · exact hline

/-- No line below the lowest one of a set is in the set. -/
theorem getLsbD_of_lt_lowestLine {lines : BitVec 4} {j : Nat} (hj : j < (lowestLine lines).toNat) :
    lines.getLsbD j = false := by
  unfold lowestLine at hj
  split_ifs at hj with h0 h1 h2
  · exact absurd hj (Nat.not_lt_zero j)
  · obtain rfl : j = 0 := Nat.lt_one_iff.1 hj
    exact Bool.eq_false_iff.2 h0
  · have hj : j < 2 := hj
    interval_cases j
    · exact Bool.eq_false_iff.2 h0
    · exact Bool.eq_false_iff.2 h1
  · have hj : j < 3 := hj
    interval_cases j
    · exact Bool.eq_false_iff.2 h0
    · exact Bool.eq_false_iff.2 h1
    · exact Bool.eq_false_iff.2 h2

/-- A line's vector is four times its number (R127). -/
theorem irqVector_eq (i : BitVec 2) : irqVector i = BitVec.ofNat 4 (i.toNat * 4) := by
  apply BitVec.eq_of_toNat_eq
  simp [irqVector, Nat.shiftLeft_eq]

/-- An entry clears the request of its line and no other (R127). -/
theorem State.takeLine_status_getLsbD (s : State) (i : BitVec 2) {j : Nat} (hj : j < 4) :
    (s.takeLine i).intr.status.getLsbD j = (s.intr.status.getLsbD j && !decide (j = i.toNat)) := by
  rw [State.takeLine_intr, BitVec.getLsbD_and, BitVec.getLsbD_not, lineBit_getLsbD, decide_eq_true hj, Bool.true_and]

/-- The entry on a line, as the statements write it (R127). -/
theorem State.takeLine_eq_wentTo (s : State) (i : BitVec 2) :
    s.takeLine i =
      State.wentTo
        { s with
          intr :=
            { s.intr with
              status := (s.takeLine i).intr.status, inHandler := true, savedPc := s.oldestPc
              savedCarry := s.carry, savedZero := s.zero } } (BitVec.ofNat 4 (i.toNat * 4)) := by
  rw [← irqVector_eq]
  rfl

section oldestPc

variable (s : State)

theorem State.oldestPc_of_execute (x : ExecuteEntry) (hx : s.executeL = some x) : s.oldestPc = x.pc := by
  simp [State.oldestPc, hx]

theorem State.oldestPc_of_decode (d : DecodeEntry) (hx : s.executeL = none) (hd : s.decodeL = some d) :
    s.oldestPc = d.pc := by
  simp [State.oldestPc, hx, hd]

theorem State.oldestPc_of_fetch (f : FetchEntry) (hx : s.executeL = none) (hd : s.decodeL = none)
    (hf : s.fetchL = some f) : s.oldestPc = f.pc := by
  simp [State.oldestPc, hx, hd, hf]

theorem State.oldestPc_of_empty (hx : s.executeL = none) (hd : s.decodeL = none) (hf : s.fetchL = none) :
    s.oldestPc = s.pc := by
  simp [State.oldestPc, hx, hd, hf]

end oldestPc

/-- Settles O42: the line taken is the lowest one of the armed lines, of which a pending interrupt has one. -/
theorem interruptEntryEffect : Obligations.InterruptEntryEffect := by
  refine ⟨fun s h => ?_, State.oldestPc_of_execute, State.oldestPc_of_decode, State.oldestPc_of_fetch,
    State.oldestPc_of_empty⟩
  obtain ⟨-, -, harmed⟩ := s.irqPending_iff.1 h
  have htaken := getLsbD_lowestLine harmed
  rw [s.armed_getLsbD, Bool.and_eq_true] at htaken
  obtain ⟨hrequested, hunmasked⟩ := htaken
  refine ⟨(lowestLine s.armed).toNat, BitVec.isLt _, hrequested, hunmasked, fun j hj => ?lowest,
    fun j hj => s.takeLine_status_getLsbD _ hj, s.takeLine_eq_wentTo _⟩
  case lowest => rw [← s.armed_getLsbD, getLsbD_of_lt_lowestLine hj]

/-! Return from an interrupt (R128, R131). -/

/-- The return from an interrupt, as the statements write it (R131). -/
theorem State.returnFromIrq_eq_wentTo (s : State) :
    s.returnFromIrq =
      State.wentTo
        { s with
          carry := s.intr.savedCarry, zero := s.intr.savedZero
          intr := { s.intr with inHandler := false } } s.intr.savedPc := rfl

/-- Settles O36: in a handler `iret` is the return from the interrupt. -/
theorem iretRestores : Obligations.IretRestores := by
  intro s h
  rw [exec_iret_of_inHandler s h, s.returnFromIrq_eq_wentTo]

/-- The interrupt state after an entry and the return from it, when no handler was active before. -/
theorem State.intr_of_roundTrip (s : State) (h : s.intr.inHandler = false) :
    s.takeIrq.returnFromIrq.intr =
      { s.intr with
        status := s.takeIrq.intr.status, savedPc := s.oldestPc, savedCarry := s.carry, savedZero := s.zero } := by
  rw [State.returnFromIrq_intr, ← h]
  rfl

/-- After an entry and the return from it the armed lines are those that were armed and are still requested. -/
theorem State.armed_of_roundTrip (s : State) :
    s.takeIrq.returnFromIrq.armed = s.intr.status &&& s.intr.mask &&& s.takeIrq.intr.status := by
  calc s.takeIrq.returnFromIrq.armed
      = s.intr.status &&& ~~~lineBit (lowestLine s.armed) &&& s.intr.mask := rfl
    _ = s.intr.status &&& s.intr.status &&& ~~~lineBit (lowestLine s.armed) &&& s.intr.mask := by rw [BitVec.and_self]
    _ = s.intr.status &&& s.intr.mask &&& (s.intr.status &&& ~~~lineBit (lowestLine s.armed)) := by ac_rfl
    _ = s.intr.status &&& s.intr.mask &&& s.takeIrq.intr.status := rfl

/-- Settles O44: the entry saves what the return restores, and the controller is enabled with no handler active again,
so that an interrupt is pending exactly when an armed line is left. -/
theorem interruptRoundTrip : Obligations.InterruptRoundTrip := by
  intro s h
  obtain ⟨henabled, houtside, -⟩ := s.irqPending_iff.1 h
  have hintr := s.intr_of_roundTrip houtside
  refine ⟨_, exec_iret_of_inHandler s.takeIrq rfl, rfl, rfl, ?arch, ?pending⟩
  case arch =>
    rw [← hintr]
    rfl
  case pending => rw [State.irqPending, s.armed_of_roundTrip, hintr, henabled, houtside]; rfl

/-! When a pending interrupt is taken (R124). -/

/-- A Tick, of the run loop or of the host, with an interrupt pending takes it (70_reset_and_hazards.md R143). -/
theorem step_of_ticksFrom_of_irq {s b : State} (h : s.ticksFrom b) (hirq : b.irqPending = true) :
    step s = .next b.settleTick.takeIrq := by
  rw [step_of_ticksFrom s b h, tick_of_irq exec b hirq]

/-- Direct execution of a core that may step, answered, is the instruction after the settle tick (70 R156). -/
theorem step_of_direct {s : State} {i : Instr} {rest : List Event} (he : s.events = .direct i :: rest)
    (hs : s.mayStep) (hi : i.wellFormed = true) :
    step s = exec i (State.settleTick { s with events := rest, reply := .ok }) := by
  rw [step_of_event s _ _ he]
  exact if_pos (Bool.and_eq_true_iff.2 ⟨(State.canStep_iff _).2 hs, hi⟩)

/-- Settles O43: a Step and both Ticks test for the interrupt first, and direct execution is the instruction alone. -/
theorem pendingInterruptIsTakenFirst : Obligations.PendingInterruptIsTakenFirst := by
  refine ⟨fun s rest he hs hirq => ?hostStep, fun s rest he hs hirq => ?hostTick, fun s he hs hirq => ?runLoop,
    fun s i rest => step_of_direct⟩
  case hostStep =>
    rw [step_of_hostStep he hs]
    exact stepOnce_of_irq exec _ hirq
  case hostTick => exact step_of_ticksFrom_of_irq ⟨hs, .inr ⟨rest, he, rfl⟩⟩ hirq
  case runLoop => exact step_of_ticksFrom_of_irq ⟨hs, .inl ⟨he, rfl⟩⟩ hirq

/-! Every step has a next state (R119, R120; log 19). -/

/-- The outcome is a next state. -/
def HasNext (o : Host.Outcome State Fault Refusal) : Prop := ∃ t, o = .next t

theorem hasNext_next (t : State) : HasNext (.next t) := ⟨t, rfl⟩

theorem HasNext.ite {c : Prop} [Decidable c] {o p : Host.Outcome State Fault Refusal} (ho : HasNext o)
    (hp : HasNext p) : HasNext (if c then o else p) := by
  split
  · exact ho
  · exact hp

theorem exec_hasNext (i : Instr) (s : State) : HasNext (exec i s) := by
  obtain ⟨t, ht, -⟩ := exec_faultsOnlyAs i s
  exact ⟨t, ht⟩

theorem perform_hasNext (d : Decoded) (s : State) : HasNext (perform exec d s) := by
  cases d with
  | insn i => exact exec_hasNext i s
  | illegal | endMark => exact hasNext_next _

theorem stepOnce_hasNext (s : State) : HasNext (stepOnce exec s) :=
  (hasNext_next _).ite (perform_hasNext _ _)

theorem executeStage_hasNext (e : ExecuteEntry) (s : State) : HasNext (executeStage exec e s) := by
  obtain ⟨t, ht⟩ := perform_hasNext e.insn s
  rw [executeStage, ht]
  exact hasNext_next _

theorem tick_hasNext (s : State) : HasNext (tick exec s) := by
  cases hirq : s.irqPending with
  | true => exact ⟨_, tick_of_irq exec s hirq⟩
  | false =>
    cases hx : s.executeL with
    | none => exact ⟨_, tick_of_empty exec s hirq hx⟩
    | some e =>
      rw [tick_of_entry exec s e hirq hx]
      exact executeStage_hasNext e s.settleTick

/-- A host operation has a next state: those that run the core do, and so does every other, failed or not. -/
theorem performEvent_hasNext (e : Event) (s : State) : HasNext (performEvent exec e s) := by
  cases e with
  | tick => exact (tick_hasNext _).ite (hasNext_next _)
  | step => exact (stepOnce_hasNext _).ite (hasNext_next _)
  | direct i => exact (exec_hasNext i _).ite (hasNext_next _)
  | _ => exact hasNext_next _

theorem step_hasNext (s : State) : HasNext (step s) := by
  cases he : s.events with
  | cons e rest =>
    rw [step_of_event s e rest he]
    exact performEvent_hasNext e _
  | nil =>
    cases hc : s.canTick with
    | true =>
      rw [step_of_run_loop s he hc]
      exact tick_hasNext s
    | false => exact ⟨s, step_of_idle s he hc⟩

/-- Settles O51: by the kinds of a latched entry, of an event and of a transition, down to the instructions. -/
theorem everyStepHasANextState : Obligations.EveryStepHasANextState :=
  ⟨exec_hasNext, step_hasNext⟩

end Sys2Proof.Machine
end

section
/-! Proofs about execution (spec/70_reset_and_hazards.md R141 to R146): a Step that runs an instruction, the stages of a
Tick, what the entry in X does in it, and the hazard that holds D for one tick. -/

namespace Sys2Proof.Machine

/-! Step (R141). -/

/-- Settles O45: the word at the pc is inside the program, so it is what the Step fetches and decodes. -/
theorem stepRunsTheDecodedInstruction : Obligations.StepRunsTheDecodedInstruction := by
  intro s rest i he hstop hfault hf hd hx hirq hinside hi
  rw [step_of_hostStep_of_no_irq he ⟨hstop, hfault, hf, hd, hx⟩ hirq, s.fetch_inside s.pc hinside, decodeFetched, hi,
    perform]

/-! The stages of a Tick (R143, steps 3 and 4; R144). -/

/-- D is held exactly when it reads the register that the entry which has just executed writes (R144). -/
theorem stalls_some_iff (e : Decoded) (d : Option DecodeEntry) :
    stalls (some e) d = true ↔ ∃ n r, d = some n ∧ entryDestination e = some r ∧ r ∈ entrySources n.insn := by
  cases d with
  | none => simp [stalls]
  | some n => cases hr : entryDestination e <;> simp [stalls, hr]

/-- With nothing executed, nothing is held. -/
theorem stalls_none (d : Option DecodeEntry) : stalls none d = false := rfl

theorem State.advanceStages_of_stall {s : State} {f : RegFile} {done : Option Decoded}
    (h : stalls done s.decodeL = true) : s.advanceStages f done = s := if_pos h

/-- The advance of the stages, as the statements write it. -/
theorem State.advanceStages_advancesTo {s : State} {f : RegFile} {done : Option Decoded}
    (h : stalls done s.decodeL = false) : s.advancesTo f (s.advanceStages f done) := by
  obtain ⟨hstall, -⟩ | ⟨-, hs⟩ := s.advanceStages_cases f done
  · simp [h] at hstall
  rw [hs, pcIncrement_eq]
  refine ⟨rfl, fun hd => ?bubble, fun d hd => ⟨executeEntry f s.draws d, ?entry⟩⟩
  case bubble => simp [hd, promotionDraws]
  case entry =>
    refine ⟨by simp [hd], rfl, rfl, by simp [hd, promotionDraws, executeEntry], readOperands_regs f _ _, ?_, ?_⟩
    · exact fun r hr hsettled => lookupOperand_readOperands f _ _ r hr hsettled
    · intro r hr hfloats
      simpa [hd, promotionDraws, executeEntry] using lookupOperand_readOperands_floating f _ s.draws r hr hfloats

/-- The stages hold nothing that a program sees (R146). -/
theorem State.advanceStages_arch (s : State) (f : RegFile) (done : Option Decoded) :
    (s.advanceStages f done).arch = s.arch := by
  rcases s.advanceStages_cases f done with ⟨-, hs⟩ | ⟨-, hs⟩ <;> rw [hs]
  rfl

/-- Settles O49: with X empty nothing is held, so the tick is the settling and the advance of the stages. -/
theorem fillingTickChangesNothingAProgramSees : Obligations.FillingTickChangesNothingAProgramSees := by
  intro s b hs hirq hx
  exact ⟨_, (step_of_ticksFrom s b hs).trans (tick_of_empty exec b hirq hx),
    State.advanceStages_advancesTo (stalls_none _), State.advanceStages_arch _ _ _⟩

/-! The entry in X (R143, step 2). -/

/-- An instruction that stops the core or is a taken transfer leaves the latches empty. -/
theorem exec_latches_of_ended {i : Instr} {s t : State} (ht : exec i s = .next t) (hrun : s.running = true)
    (hend : t.running = false ∨ takesTransfer i s = true) :
    t.fetchL = none ∧ t.decodeL = none ∧ t.executeL = none := by
  obtain ⟨u, hu, ⟨hstay, ho⟩ | ⟨-, p, ho⟩ | ⟨c, -, ho⟩ | ⟨-, ho⟩⟩ := exec_ends i s
  all_goals
    rw [ht] at ho
    cases ho
  · simp [hu.running, hrun, hstay] at hend
  all_goals exact ⟨rfl, rfl, rfl⟩

/-- Any other instruction retires from X and leaves D and F; the pc is the fetch's to move when X held it. -/
theorem exec_latches_of_goesOn {i : Instr} {s t : State} (ht : exec i s = .next t) (hrun : t.running = true)
    (hstay : takesTransfer i s = false) :
    t.executeL = none ∧ t.decodeL = s.decodeL ∧ t.fetchL = s.fetchL ∧
      t.pc = if s.executeL.isSome then s.pc else pcIncrement s.pc := by
  obtain ⟨u, hu, ⟨-, ho⟩ | ⟨htaken, p, ho⟩ | ⟨c, -, ho⟩ | ⟨-, ho⟩⟩ := exec_ends i s
  all_goals
    rw [ht] at ho
    cases ho
  · exact ⟨rfl, hu.decodeL, hu.fetchL, by rw [State.next_pc, hu.executeL, hu.pc]⟩
  · simp [hstay] at htaken
  all_goals simp at hrun

/-- A stop, a fault or a taken transfer ends the tick. -/
theorem executeStage_of_ended {ex : Meaning} {x : ExecuteEntry} {s t : State} (ht : perform ex x.insn s = .next t)
    (hend : t.running = false ∨ entryTransfers x.insn s = true) : executeStage ex x s = .next t := by
  rw [executeStage, ht]
  exact congrArg _ (if_pos (by simpa using hend))

/-- After any other entry the stages advance, or D is held. -/
theorem executeStage_of_goesOn {ex : Meaning} {x : ExecuteEntry} {s t : State} (ht : perform ex x.insn s = .next t)
    (hrun : t.running = true) (hstay : entryTransfers x.insn s = false) :
    executeStage ex x s = .next (t.advanceStages s.regs (some x.insn)) := by
  rw [executeStage, ht]
  exact congrArg _ (if_neg (by simp [hrun, hstay]))

/-- An entry ends its tick, or goes on and the stages advance. -/
theorem executeStage_cases {ex : Meaning} {x : ExecuteEntry} {s t : State} (ht : perform ex x.insn s = .next t) :
    executeStage ex x s = .next t ∨
      t.running = true ∧ entryTransfers x.insn s = false ∧
        executeStage ex x s = .next (t.advanceStages s.regs (some x.insn)) := by
  by_cases hend : t.running = false ∨ entryTransfers x.insn s = true
  · exact .inl (executeStage_of_ended ht hend)
  · obtain ⟨hrun, hstay⟩ : t.running = true ∧ entryTransfers x.insn s = false := by simpa using hend
    exact .inr ⟨hrun, hstay, executeStage_of_goesOn ht hrun hstay⟩

/-- Settles O47: END and an illegal word stop the core, so they end the tick; an instruction ends it or goes on, and
then its destination decides whether D is held. -/
theorem tickExecutesTheEntryInX : Obligations.TickExecutesTheEntryInX := by
  intro s b x hs hirq hx
  have hrun : b.running = true := hs.1.1
  have hown : b.settleTick.ownPc = x.pc := State.ownPc_of_entry _ x hx
  rw [step_of_ticksFrom s b hs, tick_of_entry exec b x hirq hx]
  refine ⟨fun hend => ?atEnd, fun w hw => ?illegalWord, fun i t hi ht => ?instruction⟩
  case atEnd =>
    rw [← hown]
    exact executeStage_of_ended (by rw [hend, perform_endMark]) (.inl rfl)
  case illegalWord =>
    rw [← hown]
    exact executeStage_of_ended (by rw [hw, perform_illegal]) (.inl rfl)
  case instruction =>
    have hperform : perform exec x.insn b.settleTick = .next t := by rw [hi, perform, ht]
    have htransfers : entryTransfers x.insn b.settleTick = takesTransfer i b := by
      rw [hi, entryTransfers, takesTransfer_settleTick]
    refine ⟨fun hend => ⟨?_, ?_⟩, fun hgoes hstay => ?_⟩
    · exact executeStage_of_ended hperform (by rwa [htransfers])
    · exact exec_latches_of_ended ht hrun (by rwa [takesTransfer_settleTick])
    obtain ⟨htx, htd, htf, htpc⟩ := exec_latches_of_goesOn ht hgoes (by rwa [takesTransfer_settleTick])
    rw [executeStage_of_goesOn hperform hgoes (by rwa [htransfers]), hi]
    refine ⟨htx, htd, htf, by simpa [hx] using htpc, fun ⟨d, r, hd, hr, hmem⟩ => ?held, fun hfree => ?advance⟩
    case held =>
      exact congrArg _ (State.advanceStages_of_stall ((stalls_some_iff _ _).2 ⟨d, r, htd.trans hd, hr, hmem⟩))
    case advance =>
      refine ⟨_, rfl, State.advanceStages_advancesTo (Bool.eq_false_iff.2 fun hstall => ?_)⟩
      obtain ⟨d, r, hd, hr, hmem⟩ := (stalls_some_iff _ _).1 hstall
      exact hfree d r (htd.symm.trans hd) hr hmem

/-! The hazard (R144). -/

/-- Whether an interrupt is pending is read off the controller. -/
theorem State.irqPending_congr {s t : State} (h : t.intr = s.intr) : t.irqPending = s.irqPending := by
  rw [State.irqPending, State.irqPending, State.armed, State.armed, h]

/-- Settles O48: the first tick executes the entry in X and holds D, the second is a filling tick that reads the
register with the value written. -/
theorem hazardHoldsDecodeForOneTick : Obligations.HazardHoldsDecodeForOneTick := by
  intro s x d i r he hmay hirq hx hi hd hdest hr
  obtain ⟨hstay, u, v, hexec, hregs, hintr, hu⟩ := exec_of_destination i s.settleTick r hdest
  have hwritten : u.next.regs.get r = ⟨v, false⟩ := by rw [State.next_regs, hregs, RegFile.get_set_same]
  obtain ⟨hrun, hfault⟩ := hmay
  obtain ⟨-, -, hinsn⟩ := tickExecutesTheEntryInX s s x ⟨⟨hrun, hfault⟩, .inl ⟨he, rfl⟩⟩ hirq hx
  obtain ⟨-, hgoesOn⟩ := hinsn i u.next hi hexec
  obtain ⟨htx, htd, htf, htpc, hheld, -⟩ :=
    hgoesOn (hu.running.trans hrun) ((takesTransfer_settleTick i s).symm.trans hstay)
  have hirq' : u.next.irqPending = false := (State.irqPending_congr hintr).trans hirq
  obtain ⟨w, hw, ⟨-, -, hentry⟩, -⟩ := fillingTickChangesNothingAProgramSees u.next u.next
    ⟨⟨hu.running.trans hrun, hu.fault.trans hfault⟩, .inl ⟨hu.events.trans he, rfl⟩⟩ hirq' htx
  obtain ⟨y, hy, hypc, hyinsn, -, -, hops, -⟩ := hentry d (htd.trans hd)
  refine ⟨u.next, w, hheld ⟨d, r, hd, hdest, hr⟩, htx, htd, htf, htpc, by rw [hwritten], hw, y, hy, hypc, hyinsn, ?_⟩
  have hsettled : u.next.settleTick.regs.get r = ⟨v, false⟩ := by rw [State.settleTick_get, hwritten]; rfl
  rw [hwritten, hops r hr (by rw [hsettled]), hsettled]

end Sys2Proof.Machine
end

section
/-! Proofs that Step and Tick agree (spec/70_reset_and_hazards.md R147, R149): a relation between a core with full
latches and one with empty latches at the same instruction, on which every instruction acts alike, and the three ticks
that lead to it. -/

namespace Sys2Proof.Machine

/-! States that are alike but for what paces them. -/

/-- The states show a program the same (R147), have the same parameters, are at the same instruction, and go on to the
same one. With `cmp` they run alike too. -/
structure State.Alike (s u : State) (cmp : Bool) : Prop where
  arch : u.arch = s.arch
  cfg : u.cfg = s.cfg
  ownPc : u.ownPc = s.ownPc
  nextPc : u.next.oldestPc = s.next.oldestPc
  running : cmp = true → u.running = s.running

/-- The states show a program the same and have the same oldest unexecuted instruction. With `cmp` they run alike
too. -/
structure State.EndAlike (s u : State) (cmp : Bool) : Prop where
  arch : u.arch = s.arch
  oldestPc : u.oldestPc = s.oldestPc
  running : cmp = true → u.running = s.running

/-- `s` as far as a program sees it, paced as `p` is. -/
def State.pacedAs (s p : State) : State :=
  { p with
    regs := s.regs, carry := s.carry, zero := s.zero, callStack := s.callStack, intr := s.intr, rom := s.rom
    ram := s.ram, imem := s.imem, progLen := s.progLen, keys := s.keys, display := s.display, fault := s.fault
    faultPc := s.faultPc, cfg := s.cfg }

section alike

variable {s u : State} {cmp : Bool} (h : s.Alike u cmp)

include h

theorem State.Alike.eq_pacedAs : u = s.pacedAs u := by
  have harch := h.arch
  simp only [State.arch, ArchView.mk.injEq] at harch
  obtain ⟨hregs, hcarry, hzero, hstack, hintr, hrom, hram, himem, hlen, hkeys, hdisplay, hfault, hfaultPc⟩ := harch
  rw [State.pacedAs, ← hregs, ← hcarry, ← hzero, ← hstack, ← hintr, ← hrom, ← hram, ← himem, ← hlen, ← hkeys,
    ← hdisplay, ← hfault, ← hfaultPc, ← h.cfg]

/-- How many free values have been drawn is the model's own (log 3). -/
theorem State.Alike.withDraws (m n : Nat) : State.Alike { s with draws := m } { u with draws := n } cmp := { h with }

theorem State.Alike.jumpTo (t : Nibble) : (s.jumpTo t).EndAlike (u.jumpTo t) cmp := ⟨h.arch, rfl, h.running⟩

theorem State.Alike.next : s.next.EndAlike u.next cmp := ⟨h.arch, h.nextPc, h.running⟩

theorem State.Alike.halt : s.halt.EndAlike u.halt cmp := ⟨h.arch, h.ownPc, fun _ => rfl⟩

theorem State.Alike.raise (c : FaultCode) : (s.raise c).EndAlike (u.raise c) cmp where
  arch := congrArg₂ (fun (v : ArchView) p => { v with fault := c, faultPc := p }) h.arch h.ownPc
  oldestPc := h.ownPc
  running _ := rfl

end alike

/-- The operation acts alike on states that are alike. -/
def PaceBlind (g : State → State) : Prop := ∀ s u cmp, State.Alike s u cmp → (g s).EndAlike (g u) cmp

/-- Changes that look at nothing that paces the core, and leave it, before an instruction goes on. -/
theorem PaceBlind.of_next {k : State → State} (harch : ∀ s p, (k (s.pacedAs p)).arch = (k s).arch)
    (hpc : ∀ s, (k s).next.oldestPc = s.next.oldestPc) (hrun : ∀ s, (k s).running = s.running) :
    PaceBlind fun s => (k s).next := by
  intro s u cmp h
  refine ⟨?_, ?_, fun hc => ?_⟩
  · rw [h.eq_pacedAs]
    exact harch s u
  · rw [hpc u, hpc s]
    exact h.nextPc
  · rw [State.next_running, State.next_running, hrun, hrun]
    exact h.running hc

theorem paceBlind_aluStore (op : AluOp) (ra : Reg) (x y : Nibble) : PaceBlind fun u => (u.aluStore op ra x y).next :=
  .of_next (fun _ _ => rfl) (fun _ => rfl) fun _ => rfl

theorem paceBlind_aluCompare (x y : Nibble) : PaceBlind fun u => (u.aluCompare x y).next :=
  .of_next (fun _ _ => rfl) (fun _ => rfl) fun _ => rfl

theorem paceBlind_writeReg (ra : Reg) (x : Nibble) : PaceBlind fun u => (u.writeReg ra x).next :=
  .of_next (fun _ _ => rfl) (fun _ => rfl) fun _ => rfl

theorem paceBlind_loadFrom (ra : Reg) (ea : Nibble) : PaceBlind fun u => u.loadFrom ra ea :=
  .of_next (k := fun u => (u.afterBusRead ea).writeReg ra (u.busValue ea)) (fun _ _ => rfl) (fun _ => rfl) fun _ => rfl

theorem paceBlind_storeTo (ea x : Nibble) : PaceBlind fun u => u.storeTo ea x :=
  .of_next (k := fun u => u.busWrite ea x) (fun _ _ => rfl) (fun _ => rfl) fun _ => rfl

theorem paceBlind_requestLine (i : BitVec 2) : PaceBlind fun u => (u.requestLine i).next :=
  .of_next (fun _ _ => rfl) (fun _ => rfl) fun _ => rfl

/-- A gated transfer whose gate a program sees (42_control_transfer.md R107 to R109). -/
theorem paceBlind_branch (b : State → Bool) (hb : ∀ s p, b (s.pacedAs p) = b s) (t : Nibble) :
    PaceBlind fun u => u.branch (b u) t := by
  intro s u cmp h
  have hsame : b u = b s := by rw [h.eq_pacedAs, hb]
  simp only [hsame]
  cases b s with
  | true => exact h.jumpTo t
  | false => exact h.next

theorem paceBlind_callTo (t : Nibble) : PaceBlind fun u => u.callTo t := by
  intro s u cmp h
  have hfull : u.stackFull = s.stackFull := by rw [h.eq_pacedAs]; rfl
  simp only [State.callTo, hfull]
  split
  · exact h.raise _
  · refine ⟨?_, rfl, h.running⟩
    exact congrArg₂ (fun (v : ArchView) p => { v with callStack := pcIncrement p :: v.callStack }) h.arch h.ownPc

theorem paceBlind_returnFromCall : PaceBlind State.returnFromCall := by
  intro s u cmp h
  have hstack : u.callStack = s.callStack := congrArg ArchView.callStack h.arch
  have hlen : u.progLen = s.progLen := congrArg ArchView.progLen h.arch
  simp only [State.returnFromCall, hstack, hlen]
  split
  · exact h.raise _
  · split
    · exact ⟨congrArg (fun v : ArchView => { v with callStack := v.callStack.tail }) h.arch, rfl, h.running⟩
    · exact h.raise _

theorem paceBlind_iret :
    PaceBlind fun u => if u.intr.inHandler then u.returnFromIrq else u.raise .iretOutsideHandler := by
  intro s u cmp h
  have hintr : u.intr = s.intr := congrArg ArchView.intr h.arch
  simp only [hintr]
  split
  · refine ⟨?_, congrArg InterruptState.savedPc hintr, h.running⟩
    exact congrArg (fun v : ArchView =>
      { v with
        carry := v.intr.savedCarry, zero := v.intr.savedZero, intr := { v.intr with inHandler := false } }) h.arch
  · exact h.raise _

/-! Reading operands. -/

/-- An instruction reads each of the registers as its value, however many free values have been drawn. -/
def State.ReadsPlainly (s : State) (rs : List Reg) : Prop :=
  ∀ r ∈ rs, ∀ n, State.regValue { s with draws := n } r = (s.regs.get r).val

theorem State.ReadsPlainly.of_settled {s : State} (hx : s.executeL = none) (h : ∀ r, (s.regs.get r).floating = false)
    (rs : List Reg) : s.ReadsPlainly rs :=
  fun r _ n => (State.regRead_of_settled { s with draws := n } r hx (h r)).1

/-- X holds the values of settled registers for the entry that it took from D. -/
theorem State.ReadsPlainly.of_entry {s : State} {d : DecodeEntry} {n : Nat}
    (hx : s.executeL = some (executeEntry s.regs n d)) (h : ∀ r, (s.regs.get r).floating = false) :
    s.ReadsPlainly (entrySources d.insn) := fun r hr m =>
  (State.regValue_of_latched { s with draws := m } _ r _ hx (lookupOperand_readOperands s.regs _ n r hr (h r))).1

theorem State.ReadsPlainly.second {s : State} {ra rb : Reg}
    (h : s.ReadsPlainly (if ra = rb then [ra] else [ra, rb])) :
    s.regValue ra = (s.regs.get ra).val ∧ s.pairSecond ra rb = (s.regs.get rb).val := by
  have ha := h ra ((mem_pairSources_iff ra rb ra).2 (by simp))
  have hb := h rb ((mem_pairSources_iff ra rb rb).2 (by simp))
  refine ⟨ha s.draws, ?_⟩
  by_cases hr : ra = rb
  · subst hr
    exact s.pairRead_same ra |>.1.trans (ha s.draws)
  · exact (s.pairRead_of_ne hr).1.trans (hb _)

/-! Instructions on states that are alike. -/

/-- Both outcomes are next states, which are alike. -/
def EndsAlike (cmp : Bool) (o p : Host.Outcome State Fault Refusal) : Prop :=
  ∃ t v : State, o = .next t ∧ p = .next v ∧ t.EndAlike v cmp

section endsAlike

variable {s u : State} {cmp : Bool} (h : s.Alike u cmp)

include h

theorem EndsAlike.of_noRead {g : State → State} (hg : PaceBlind g) : EndsAlike cmp (.next (g s)) (.next (g u)) :=
  ⟨_, _, rfl, rfl, hg _ _ _ h⟩

theorem EndsAlike.of_read {r : Reg} {g : Nibble → State → State} (hg : ∀ x, PaceBlind (g x)) (hs : s.ReadsPlainly [r])
    (hu : u.ReadsPlainly [r]) :
    EndsAlike cmp (.next (g (s.regValue r) (s.afterRead r))) (.next (g (u.regValue r) (u.afterRead r))) := by
  have hregs : u.regs = s.regs := congrArg ArchView.regs h.arch
  have hr := List.mem_singleton_self r
  have hvalue : u.regValue r = s.regValue r := by
    calc u.regValue r = (u.regs.get r).val := hu r hr u.draws
      _ = (s.regs.get r).val := by rw [hregs]
      _ = s.regValue r := (hs r hr s.draws).symm
  rw [hvalue]
  exact ⟨_, _, rfl, rfl, hg _ _ _ _ (h.withDraws _ _)⟩

theorem EndsAlike.of_readPair {ra rb : Reg} {g : Nibble → Nibble → State → State} (hg : ∀ x y, PaceBlind (g x y))
    (hs : s.ReadsPlainly (if ra = rb then [ra] else [ra, rb]))
    (hu : u.ReadsPlainly (if ra = rb then [ra] else [ra, rb])) :
    EndsAlike cmp (.next (g (s.regValue ra) (s.pairSecond ra rb) (s.afterPair ra rb)))
      (.next (g (u.regValue ra) (u.pairSecond ra rb) (u.afterPair ra rb))) := by
  have hregs : u.regs = s.regs := congrArg ArchView.regs h.arch
  obtain ⟨hsa, hsb⟩ := hs.second
  obtain ⟨hua, hub⟩ := hu.second
  rw [hua, hub, hsa, hsb, hregs]
  exact ⟨_, _, rfl, rfl, hg _ _ _ _ _ (h.withDraws _ _)⟩

/-- An instruction that reads its sources as their values does the same on states that are alike (R147). -/
theorem exec_endsAlike (i : Instr) (hs : s.ReadsPlainly (sources i)) (hu : u.ReadsPlainly (sources i)) :
    EndsAlike cmp (exec i s) (exec i u) := by
  cases i with
  | addR ra rb => exact .of_readPair h (paceBlind_aluStore .add ra) hs hu
  | subR ra rb => exact .of_readPair h (paceBlind_aluStore .sub ra) hs hu
  | mulR ra rb => exact .of_readPair h (paceBlind_aluStore .mul ra) hs hu
  | andR ra rb => exact .of_readPair h (paceBlind_aluStore .and ra) hs hu
  | orR ra rb => exact .of_readPair h (paceBlind_aluStore .or ra) hs hu
  | xorR ra rb => exact .of_readPair h (paceBlind_aluStore .xor ra) hs hu
  | addI ra k => exact .of_read h (paceBlind_aluStore .add ra · k) hs hu
  | subI ra k => exact .of_read h (paceBlind_aluStore .sub ra · k) hs hu
  | mulI ra k => exact .of_read h (paceBlind_aluStore .mul ra · k) hs hu
  | andI ra k => exact .of_read h (paceBlind_aluStore .and ra · k) hs hu
  | orI ra k => exact .of_read h (paceBlind_aluStore .or ra · k) hs hu
  | xorI ra k => exact .of_read h (paceBlind_aluStore .xor ra · k) hs hu
  | cmpR ra rb => exact .of_readPair h paceBlind_aluCompare hs hu
  | cmpI ra k => exact .of_read h (paceBlind_aluCompare · k) hs hu
  | movR ra rb => exact .of_read h (paceBlind_writeReg ra) hs hu
  | movI ra k => exact .of_noRead h (paceBlind_writeReg ra k)
  | loadR ra rb => exact .of_read h (paceBlind_loadFrom ra) hs hu
  | loadI ra k => exact .of_noRead h (paceBlind_loadFrom ra k)
  | storeR ra rb => exact .of_readPair h (fun x y => paceBlind_storeTo y x) hs hu
  | storeI ra k => exact .of_read h (paceBlind_storeTo k) hs hu
  | jmpR rb => exact .of_read h (fun t _ _ _ h => h.jumpTo t) hs hu
  | jmpI t => exact .of_noRead h fun _ _ _ h => h.jumpTo t
  | jzR rb => exact .of_read h (paceBlind_branch State.zero fun _ _ => rfl) hs hu
  | jzI t => exact .of_noRead h (paceBlind_branch State.zero (fun _ _ => rfl) t)
  | jnzR rb => exact .of_read h (paceBlind_branch (fun u => !u.zero) fun _ _ => rfl) hs hu
  | jnzI t => exact .of_noRead h (paceBlind_branch (fun u => !u.zero) (fun _ _ => rfl) t)
  | jcR rb => exact .of_read h (paceBlind_branch State.carry fun _ _ => rfl) hs hu
  | jcI t => exact .of_noRead h (paceBlind_branch State.carry (fun _ _ => rfl) t)
  | callR rb => exact .of_read h paceBlind_callTo hs hu
  | callI t => exact .of_noRead h (paceBlind_callTo t)
  | ret => exact .of_noRead h paceBlind_returnFromCall
  | iret => exact .of_noRead h paceBlind_iret
  | nop => exact .of_noRead h fun _ _ _ h => h.next
  | hlt => exact .of_noRead h fun _ _ _ h => h.halt
  | irq n => exact .of_noRead h (paceBlind_requestLine (lineOfImm n))

/-- So does what X holds or a Step decodes. -/
theorem perform_endsAlike (d : Decoded) (hs : s.ReadsPlainly (entrySources d)) (hu : u.ReadsPlainly (entrySources d)) :
    EndsAlike cmp (perform exec d s) (perform exec d u) := by
  cases d with
  | insn i => exact exec_endsAlike h i hs hu
  | illegal w => exact ⟨_, _, rfl, rfl, h.raise _⟩
  | endMark => exact ⟨_, _, rfl, rfl, h.halt⟩

end endsAlike

/-! Filling the latches (R146, R149). -/

/-- A running core whose registers have settled, with no action and no interrupt pending. -/
structure State.Calm (s : State) : Prop where
  events : s.events = []
  mayTick : s.mayTick
  noIrq : s.irqPending = false
  settle : s.settle = 0
  settled : ∀ r, (s.regs.get r).floating = false

/-- The advance of the stages with nothing executed. -/
def State.fill (s : State) : State := s.advanceStages s.regs none

section fill

variable (s : State)

theorem State.fill_executeL : s.fill.executeL = s.decodeL.map (executeEntry s.regs s.draws) := rfl

theorem State.fill_decodeL :
    s.fill.decodeL = s.fetchL.map fun e => { pc := e.pc, insn := decodeFetched e.word } := rfl

end fill

theorem State.Calm.fill {s : State} (h : s.Calm) : s.fill.Calm := { h with }

/-- A calm core has no settling left. -/
theorem State.Calm.settleTick_eq {s : State} (h : s.Calm) : s.settleTick = s := by
  have hsettle : s.settleTick.settle = s.settle := by simp [h.settle]
  have hregs : s.settleTick.regs = s.regs := RegFile.ext_get _ _ fun r => by
    rw [s.settleTick_get, RegCell.settled, h.settled r, Bool.false_and, ← h.settled r]
  calc s.settleTick = { s with settle := s.settleTick.settle, regs := s.settleTick.regs } := rfl
    _ = s := by rw [hsettle, hregs]

theorem State.Calm.step_eq_tick {s : State} (h : s.Calm) : step s = tick exec s :=
  step_of_run_loop s h.events (s.canTick_iff.2 h.mayTick)

theorem State.Calm.step_of_empty {s : State} (h : s.Calm) (hx : s.executeL = none) : step s = .next s.fill := by
  rw [h.step_eq_tick, tick_of_empty exec s h.noIrq hx, h.settleTick_eq, State.fill]

theorem State.Calm.step_of_entry {s : State} {x : ExecuteEntry} (h : s.Calm) (hx : s.executeL = some x) :
    step s = executeStage exec x s := by
  rw [h.step_eq_tick, tick_of_entry exec s x h.noIrq hx, h.settleTick_eq]

/-- After three filling ticks from empty latches, X holds the entry at the old pc and D the one after it. -/
theorem State.fill_three {s : State} (hf : s.fetchL = none) (hd : s.decodeL = none) :
    s.fill.executeL = none ∧ s.fill.fill.executeL = none ∧
      (∃ n, s.fill.fill.fill.executeL =
        some (executeEntry s.regs n { pc := s.pc, insn := decodeFetched (s.fetch s.pc) })) ∧
      ∃ d, s.fill.fill.fill.decodeL = some d ∧ d.pc = pcIncrement s.pc := by
  refine ⟨?_, ?_, ⟨_, rfl⟩, _, rfl, rfl⟩
  · rw [s.fill_executeL, hd, Option.map_none]
  · rw [s.fill.fill_executeL, s.fill_decodeL, hf, Option.map_none, Option.map_none]

/-! The ends of the fourth tick and of the Step. -/

theorem State.advanceStages_oldestPc {s : State} {d : DecodeEntry} (hx : s.executeL = none) (hd : s.decodeL = some d)
    (f : RegFile) (done : Option Decoded) : (s.advanceStages f done).oldestPc = s.oldestPc := by
  rcases s.advanceStages_cases f done with ⟨-, hs⟩ | ⟨-, hs⟩
  · rw [hs]
  · rw [hs, s.oldestPc_of_decode d hx hd]
    exact State.oldestPc_of_execute _ (executeEntry f s.draws d) (by simp [hd])

theorem State.advanceStages_running (s : State) (f : RegFile) (done : Option Decoded) :
    (s.advanceStages f done).running = s.running := by
  rcases s.advanceStages_cases f done with ⟨-, hs⟩ | ⟨-, hs⟩ <;> rw [hs]

/-- What follows the entry's execution in its tick changes nothing that R147 compares. -/
theorem executeStage_endAlike {s t : State} {x : ExecuteEntry} {d : DecodeEntry} (hd : s.decodeL = some d)
    (ht : perform exec x.insn s = .next t) : ∃ v, executeStage exec x s = .next v ∧ t.EndAlike v true := by
  rcases executeStage_cases ht with hv | ⟨hrun, hstay, hv⟩
  · exact ⟨t, hv, rfl, rfl, fun _ => rfl⟩
  have hlatches : t.executeL = none ∧ t.decodeL = some d := by
    cases hi : x.insn with
    | insn i =>
      rw [hi] at ht hstay
      obtain ⟨htx, htd, -, -⟩ := exec_latches_of_goesOn ht hrun hstay
      exact ⟨htx, htd.trans hd⟩
    | illegal | endMark =>
      rw [hi] at ht
      cases ht
      cases hrun
  obtain ⟨htx, htd⟩ := hlatches
  exact ⟨_, hv, t.advanceStages_arch _ _, State.advanceStages_oldestPc htx htd _ _,
    fun _ => t.advanceStages_running _ _⟩

/-- With empty latches before it, whatever is performed leaves its next instruction at the pc. -/
theorem perform_oldestPc_of_empty {d : Decoded} {s t : State} (hf : s.fetchL = none) (hd : s.decodeL = none)
    (ht : perform exec d s = .next t) : t.oldestPc = t.pc := by
  cases d with
  | illegal | endMark =>
    cases ht
    rfl
  | insn i =>
    obtain ⟨u, hu, rfl | ⟨p, rfl⟩ | ⟨c, rfl⟩ | rfl⟩ := exec_next_cases ht
    · exact State.oldestPc_of_empty _ rfl (hu.decodeL.trans hd) (hu.fetchL.trans hf)
    all_goals rfl

/-- The core `u` has X hold `i`, decoded at the pc of `s`, and D what follows it; `s` has empty latches and shows a
program the same. -/
structure State.FilledFrom (s u : State) (i : Decoded) (cmp : Bool) : Prop where
  arch : u.arch = s.arch
  cfg : u.cfg = s.cfg
  running : cmp = true → u.running = s.running
  fetchL : s.fetchL = none
  decodeL : s.decodeL = none
  executeL : s.executeL = none
  entry : ∃ n, u.executeL = some (executeEntry s.regs n { pc := s.pc, insn := i })
  follower : ∃ d, u.decodeL = some d ∧ d.pc = pcIncrement s.pc

theorem State.FilledFrom.alike {s u : State} {i : Decoded} {cmp : Bool} (h : s.FilledFrom u i cmp) : s.Alike u cmp := by
  obtain ⟨n, hx⟩ := h.entry
  obtain ⟨d, hd, hdpc⟩ := h.follower
  refine ⟨h.arch, h.cfg, ?ownPc, ?nextPc, h.running⟩
  case ownPc =>
    rw [u.ownPc_of_entry _ hx, s.ownPc_of_empty h.executeL]
    rfl
  case nextPc =>
    rw [u.next.oldestPc_of_decode d rfl hd, s.next.oldestPc_of_empty rfl h.decodeL h.fetchL, hdpc, s.next_pc,
      h.executeL]
    rfl

/-- Performing the entry does what a Step does (R147): both read the settled registers. -/
theorem State.FilledFrom.perform {s u : State} {i : Decoded} {cmp : Bool} (h : s.FilledFrom u i cmp)
    (hsettled : ∀ r, (s.regs.get r).floating = false) : EndsAlike cmp (perform exec i s) (perform exec i u) := by
  have hregs : u.regs = s.regs := congrArg ArchView.regs h.arch
  obtain ⟨n, hx⟩ := h.entry
  have hu : u.ReadsPlainly (entrySources i) := .of_entry (by rw [hregs]; exact hx) (by rwa [hregs])
  exact perform_endsAlike h.alike i (.of_settled h.executeL hsettled _) hu

/-- Settles O50: three filling ticks lead to a core alike to that of the Step, on which the fourth performs what the
Step does; the host's `step` performs it on a core that does not run. -/
theorem fourTicksDoWhatOneStepDoes : Obligations.FourTicksDoWhatOneStepDoes := by
  intro s he hrun hfault hf hd hx hsettle hirq
  have hsettled : ∀ r, (s.settleTick.regs.get r).floating = false :=
    s.settleTick_floating_of_le_one (by omega)
  have hcalm : s.settleTick.Calm := ⟨he, ⟨hrun, hfault⟩, hirq, by simp [hsettle], hsettled⟩
  obtain ⟨hx1, hx2, hentry, hfollower⟩ := s.settleTick.fill_three hf hd
  have htick1 : step s = .next s.settleTick.fill := by
    rw [step_of_run_loop s he (s.canTick_iff.2 ⟨hrun, hfault⟩), tick_of_empty exec s hirq hx, State.fill]
  have hfilled : s.settleTick.FilledFrom s.settleTick.fill.fill.fill (decodeFetched (s.fetch s.pc)) true :=
    ⟨rfl, rfl, fun _ => rfl, hf, hd, hx, hentry, hfollower⟩
  obtain ⟨u, t, hu, ht, hut⟩ := hfilled.perform hsettled
  have hhost : State.FilledFrom (State.settleTick { s with running := false, events := [], reply := .ok })
      s.settleTick.fill.fill.fill (decodeFetched (s.fetch s.pc)) false :=
    ⟨rfl, rfl, nofun, hf, hd, hx, hentry, hfollower⟩
  obtain ⟨v, t', hv, ht', hvt⟩ := hhost.perform hsettled
  obtain rfl : t = t' := Host.Outcome.next.inj (ht.symm.trans ht')
  obtain ⟨n, hx3⟩ := hentry
  obtain ⟨d, hd3, -⟩ := hfollower
  obtain ⟨w, hw, htw⟩ := executeStage_endAlike (x := executeEntry _ n ⟨_, _⟩) hd3 ht
  refine ⟨_, _, _, w, u, v, htick1, hcalm.fill.step_of_empty hx1, hcalm.fill.fill.step_of_empty hx2, ?tick4, ?step,
    htw.arch.trans hut.arch, (htw.running rfl).trans (hut.running rfl), ?stepPc, ?hostStep, htw.arch.trans hvt.arch,
    ?hostPc⟩
  case tick4 => exact (hcalm.fill.fill.fill.step_of_entry hx3).trans hw
  case step => exact (stepOnce_of_no_irq exec s hirq).trans hu
  case stepPc =>
    exact (htw.oldestPc.trans hut.oldestPc).trans (perform_oldestPc_of_empty hfilled.fetchL hfilled.decodeL hu)
  case hostStep =>
    have hmay : State.mayStep { s with running := false, events := [.step] } := ⟨rfl, hfault, hf, hd, hx⟩
    exact (step_of_hostStep_of_no_irq rfl hmay hirq).trans hv
  case hostPc =>
    exact (htw.oldestPc.trans hvt.oldestPc).trans (perform_oldestPc_of_empty hhost.fetchL hhost.decodeL hv)

end Sys2Proof.Machine
end

section
/-! Proofs about the host interface (spec/70_reset_and_hazards.md section 5): the reset operation, the loads of a
program and of ROM, run, stop and the interrupt controls, the persisted state, and inspection. -/

namespace Sys2Proof.Machine

/-! Reset (R38, R139). -/

/-- A register floats after a reset unless SETTLE_TICKS is 0. -/
theorem State.hostReset_floating (s : State) (r : Reg) :
    (s.hostReset.regs.get r).floating = !decide (s.cfg.settleTicks = 0) := by
  cases r <;> rfl

/-- Settles O54: the operation writes every field that it names, and no other. -/
theorem resetOperation : Obligations.ResetOperation := by
  intro s rest he
  refine ⟨_, step_of_event s _ rest he, ?_⟩
  refine ⟨rfl, rfl, rfl, rfl, rfl, rfl, rfl, rfl, rfl, rfl, rfl, rfl, rfl, rfl, rfl, rfl, rfl, rfl, ?floating, rfl, rfl,
    rfl, rfl, rfl, rfl, rfl⟩
  case floating => exact State.hostReset_floating { s with events := rest }

/-! Loads (R152, R153, 30_encoding.md R84). -/

theorem State.guarded_of_true {s t : State} {ok : Bool} (h : ok = true) : s.guarded ok t = t.answer .ok := if_pos h

theorem State.guarded_of_false {s t : State} {ok : Bool} (h : ok = false) :
    s.guarded ok t = s.answer .preconditionFailed := if_neg (by simp [h])

theorem State.canLoadProgram_iff (s : State) (words : List Word) (n : Nat) :
    s.canLoadProgram words n = true ↔ s.running = false ∧ n ≤ 16 ∧ words.length = n := by
  simp [State.canLoadProgram, and_assoc]

/-- A cell that a load from address 0 covers holds its value. -/
theorem Mem.lookup_writeAll_covered {w : Nat} (m : Mem w) (vs : List (BitVec w)) {i : Nat} (h : i < vs.length) :
    (m.writeAll 0 vs).lookup i = some vs[i] := by
  rw [Mem.lookup_writeAll, if_pos (by omega), Nat.sub_zero, List.getElem?_eq_getElem h]

/-- A cell past a load from address 0 is left. -/
theorem Mem.lookup_writeAll_past {w : Nat} (m : Mem w) (vs : List (BitVec w)) {i : Nat} (h : vs.length ≤ i) :
    (m.writeAll 0 vs).lookup i = m.lookup i := by
  rw [Mem.lookup_writeAll, if_neg (by omega)]

theorem State.imemWord_of_covered {s t : State} {words : List Word} (ht : t.imem = s.imem.writeAll 0 words) {i : Nat}
    (h : i < words.length) : t.imemWord i = words[i] := by
  rw [State.imemWord, ht, Mem.lookup_writeAll_covered s.imem words h, Option.getD_some]

theorem State.imemWord_of_past {s t : State} {words : List Word} (ht : t.imem = s.imem.writeAll 0 words) {i : Nat}
    (h : words.length ≤ i) : t.imemWord i = s.imemWord i := by
  rw [State.imemWord, ht, Mem.lookup_writeAll_past s.imem words h, State.imemWord]

theorem State.romCell_of_covered {s t : State} {cells : List Nibble} (ht : t.rom = s.rom.writeAll 0 cells) {i : Nat}
    (h : i < cells.length) : t.romCell i = cells[i] := by
  rw [State.romCell, ht, Mem.lookup_writeAll_covered s.rom cells h, Option.getD_some]

theorem State.loadText_of_error (s : State) {text : Text} {e : AsmError} (h : assemble text = .error e) :
    s.loadText text = s.answer (.asmError e) := by
  simp [State.loadText, h]

theorem State.loadText_of_ok (s : State) {text : Text} {p : Program} (h : assemble text = .ok p) :
    s.loadText text =
      s.guarded (s.canLoadProgram p.words p.words.length)
        { s.loadProgram p.words p.words.length with labels := p.labels } := by
  simp [State.loadText, h]

/-- Settles O55: each load is its effect or the answer of a failed precondition; an assembled program always fits. -/
theorem loadOperations : Obligations.LoadOperations := by
  refine ⟨fun s words rest he hstop hlen => ?program, fun s words n rest he hbad => ?badProgram,
    fun s cells rest he hstop hlen => ?rom, fun s cells rest he hbad => ?badRom,
    fun s text p rest he hstop hp => ?text, fun s text rest he => ⟨fun e herr => ?asmError, fun p hp hrun => ?badText⟩⟩
  all_goals rw [step_of_event s _ rest he]
  case program =>
    have hc := (State.canLoadProgram_iff { s with events := rest } words _).2 ⟨hstop, hlen, rfl⟩
    exact ⟨_, congrArg Host.Outcome.next (State.guarded_of_true hc),
      fun i hi => State.imemWord_of_covered (s := s) rfl hi, fun i hi => State.imemWord_of_past (s := s) rfl hi, rfl⟩
  case badProgram =>
    have hc : State.canLoadProgram { s with events := rest } words n = false := by
      rw [← Bool.not_eq_true, State.canLoadProgram_iff]
      rintro ⟨hstop, hn, hlen⟩
      rcases hbad with hrun | hn' | hlen'
      · simp [hrun] at hstop
      · omega
      · exact hlen' hlen
    exact congrArg Host.Outcome.next (State.guarded_of_false hc)
  case rom =>
    have hc : (!s.running && cells.length == s.cfg.romSize) = true := by simp [hstop, hlen]
    exact ⟨_, congrArg Host.Outcome.next (State.guarded_of_true hc),
      fun i hi => State.romCell_of_covered (s := s) rfl hi, rfl⟩
  case badRom =>
    have hc : (!s.running && cells.length == s.cfg.romSize) = false := by
      rcases hbad with hrun | hlen
      · simp [hrun]
      · simp [hlen]
    exact congrArg Host.Outcome.next (State.guarded_of_false hc)
  case text =>
    have hc := (State.canLoadProgram_iff { s with events := rest } p.words _).2 ⟨hstop, assemble_length text p hp, rfl⟩
    exact ⟨_, congrArg Host.Outcome.next ((State.loadText_of_ok _ hp).trans (State.guarded_of_true hc)),
      fun i hi => State.imemWord_of_covered (s := s) rfl hi, fun i hi => State.imemWord_of_past (s := s) rfl hi, rfl⟩
  case asmError => exact congrArg Host.Outcome.next (State.loadText_of_error _ herr)
  case badText =>
    have hc : State.canLoadProgram { s with events := rest } p.words p.words.length = false := by
      simp [State.canLoadProgram, hrun]
    exact congrArg Host.Outcome.next ((State.loadText_of_ok _ hp).trans (State.guarded_of_false hc))

/-! Run, stop and the interrupt controls (R154 to R158). -/

/-- Settles O56: each operation is its assignments; a request sets the bit of its line. -/
theorem runStopAndInterruptOperations : Obligations.RunStopAndInterruptOperations := by
  refine ⟨fun s rest => step_of_event s _ rest, fun s rest => step_of_event s _ rest, fun s i rest he => ?request,
    fun s m rest => step_of_event s _ rest, fun s b rest => step_of_event s _ rest,
    fun s k rest => step_of_event s _ rest, fun s c rest => step_of_event s _ rest⟩
  case request =>
    exact ⟨_, step_of_event s _ rest he, fun j _ => State.requestLine_status_getLsbD s i j, rfl⟩

/-! The persisted state (R159, R160). -/

/-- The ROM and RAM that a load of a saved record leaves show what the saved state showed, at every bus address. -/
theorem State.peek_of_restore (s u : State) (hcfg : u.cfg = s.cfg) (a : Nibble) :
    (u.restore s.persist).peek a = s.peek a := by
  have hentry : BitVec.ofNat 4 (s.persist.memory.getD (a.toNat - 0) 0) = s.peek a := by
    simp [List.getD_eq_getElem?_getD, s.persist_memory a]
  have hinside : 0 ≤ a.toNat ∧ a.toNat < 0 + s.persist.memory.length := ⟨Nat.zero_le _, a.isLt⟩
  have hsame : (u.restore s.persist).cfg = s.cfg := hcfg
  cases ha : busRegion s.cfg a with
  | rom i =>
    have hu : busRegion u.cfg a = .rom i := hcfg ▸ ha
    rw [(u.restore s.persist).peek_of_rom a i hu, State.romCell]
    simp only [State.restore]
    rw [restoreRom_lookup u.cfg a i hu _ _ _ (Nat.le_refl 16), if_pos hinside, hentry, Option.getD_some]
  | ram i =>
    have hu : busRegion u.cfg a = .ram i := hcfg ▸ ha
    rw [(u.restore s.persist).peek_of_ram a i hu, State.ramCell]
    simp only [State.restore]
    rw [restoreRam_lookup u.cfg a i hu _ _ _ (Nat.le_refl 16), if_pos hinside, hentry, Option.getD_some]
  | keyStatus | keyData | charOut | unmapped =>
    rw [s.peek_of_other a (by simp [ha]) (by simp [ha]),
      State.peek_of_other _ a (by simp [hsame, ha]) (by simp [hsame, ha])]

/-- A load of a saved record gives back each register's value, floating no more. -/
theorem State.get_of_restore (s u : State) (r : Reg) :
    (u.restore s.persist).regs.get r = ⟨(s.regs.get r).val, false⟩ := by
  cases r <;> simp [State.restore, RegFile.get, restoredCell, State.persist]

/-- What a load of a saved record writes besides the registers' cells, ROM and RAM. -/
theorem State.restore_persist (s u : State) :
    u.restore s.persist =
      { u with
        regs := (u.restore s.persist).regs, rom := (u.restore s.persist).rom, ram := (u.restore s.persist).ram
        pc := s.pc, labels := s.labels, callStack := s.callStack, carry := s.carry, zero := s.zero, intr := s.intr
        fault := .none, faultPc := 0, fetchL := none, decodeL := none, executeL := none } := by
  have hofNat : BitVec.ofNat 4 ∘ BitVec.toNat = (id : Nibble → Nibble) := funext fun v => BitVec.ofNat_toNat 4 v
  have hstack : ((s.persist.callStack.map (BitVec.ofNat 4)).reverse : List Nibble) = s.callStack := by
    simp [State.persist, hofNat]
  have hlabels : s.persist.labels.map (fun e => (e.1, BitVec.ofNat 4 e.2)) = s.labels := by
    simp [State.persist, Function.comp_def]
  have hintr : (u.restore s.persist).intr = s.intr := by simp [State.restore, State.persist]
  have hpc : BitVec.ofNat 4 s.persist.pc = s.pc := BitVec.ofNat_toNat 4 s.pc
  rw [← hstack, ← hlabels, ← hintr, ← hpc]
  rfl

/-- A save of the stopped core that cannot be written answers an IOError (R159). -/
theorem State.hostSave_of_writeFails (s : State) (path : Text) (h : s.running = false) :
    s.hostSave path true = s.answer .ioError := by
  simp [State.hostSave, h]

/-- A load on the stopped core of a document that is missing or not accepted answers an IOError (log 14). -/
theorem State.hostLoadState_of_refused (s : State) (path : Text) (h : s.running = false)
    (hd : ∀ d, findDoc s.files path = some d → d.accepted s.cfg = false) :
    s.hostLoadState path = s.answer .ioError := by
  rw [State.hostLoadState, if_neg (by simp [h])]
  split
  · rfl
  · rw [if_neg (by simp [hd _ ‹_›])]

/-- Settles O57: the record is read off the state, and each of its fields comes back as it was written. -/
theorem loadOfASaveReproducesTheState : Obligations.LoadOfASaveReproducesTheState := by
  refine ⟨fun s => ?record, fun s path rest he hstop => ?save, fun s path rest he hstop => ?failedSave,
    fun s u path rest he hstop hdoc hcfg hstack => ?load⟩
  case record =>
    exact ⟨rfl, rfl, rfl, s.persist_memory, rfl, List.map_reverse, rfl, rfl, rfl, rfl, rfl, rfl, rfl, rfl, rfl⟩
  all_goals rw [step_of_event _ _ rest he]
  case save =>
    have hdocs := findDoc_putDoc s.files path
    refine ⟨_, congrArg Host.Outcome.next (State.hostSave_of_stopped _ path hstop), ?_, fun other hne => ?_, rfl⟩
    · exact (hdocs path s.persist).trans (if_pos rfl)
    · exact (hdocs other s.persist).trans (if_neg hne.symm)
  case failedSave =>
    exact congrArg Host.Outcome.next (State.hostSave_of_writeFails _ path hstop)
  case load =>
    have hload := State.hostLoadState_of_accepted { u with events := rest } path _ hstop hdoc
      (hcfg ▸ s.persist_accepted s.cfg hstack)
    refine ⟨_, congrArg Host.Outcome.next hload, State.get_of_restore s { u with events := rest },
      State.peek_of_restore s { u with events := rest } hcfg, ?_⟩
    exact congrArg (State.answer · .ok) (State.restore_persist s _)

/-- A malformed document (R160, log 14), as the statements write it: a count is wrong, or a value has no nibble. -/
def Doc.Malformed (d : Doc) (p : Params) : Prop :=
  p.callDepth < d.callStack.length ∨ d.registers.length ≠ 4 ∨ d.memory.length ≠ 16 ∨
    ∃ v, 16 ≤ v ∧
      (v ∈ d.registers ∨ v = d.pc ∨ v ∈ d.memory ∨ v ∈ d.labels.map Prod.snd ∨ v ∈ d.callStack ∨ v = d.irqMask ∨
        v = d.irqStatus ∨ v = d.savedPc)

theorem Doc.Malformed.not_accepted {d : Doc} {p : Params} (h : d.Malformed p) : d.accepted p = false := by
  rw [← Bool.not_eq_true, d.accepted_iff p]
  rintro ⟨hregs, hreg, hpc, hmem, hcell, hlabel, hdepth, hentry, hmask, hstatus, hsaved⟩
  rcases h with h | h | h | ⟨v, hv, hin⟩
  · omega
  · exact h hregs
  · exact h hmem
  · refine Nat.not_lt.2 hv ?_
    rcases hin with hin | rfl | hin | hin | hin | rfl | rfl | rfl
    · exact hreg v hin
    · exact hpc
    · exact hcell v hin
    · exact hlabel v hin
    · exact hentry v hin
    · exact hmask
    · exact hstatus
    · exact hsaved

/-- Settles O58: a document that names no record, or one that is not accepted, is refused. -/
theorem malformedDocumentChangesNothing : Obligations.MalformedDocumentChangesNothing := by
  intro s path rest he hstop hbad
  have hrefused : ∀ d, findDoc s.files path = some d → d.accepted s.cfg = false := by
    intro d hd
    rcases hbad with hnone | ⟨d', hd', hbad⟩
    · simp [hnone] at hd
    · obtain rfl : d' = d := Option.some.inj (hd'.symm.trans hd)
      exact Doc.Malformed.not_accepted hbad
  rw [step_of_event s _ rest he]
  exact congrArg Host.Outcome.next (State.hostLoadState_of_refused _ path hstop hrefused)

/-! Inspection (R161). -/

/-- What is shown at a bus address, port by port and then by the sizes of ROM and RAM. -/
theorem State.peek_eq (s : State) (a : Nibble) :
    s.peek a =
      if a = s.cfg.keyStatus ∨ a = s.cfg.keyData ∨ a = s.cfg.charOut then 0
      else if a.toNat < s.cfg.romSize then s.romCell a.toNat
      else if a.toNat < s.cfg.romSize + s.cfg.ramSize then s.ramCell (a.toNat - s.cfg.romSize)
      else 0 := by
  split_ifs with hport hrom hram
  · have hregion : busRegion s.cfg a = .keyStatus ∨ busRegion s.cfg a = .keyData ∨ busRegion s.cfg a = .charOut := by
      rw [busRegion_eq_keyStatus_iff, busRegion_eq_keyData_iff, busRegion_eq_charOut_iff]
      tauto
    exact s.peek_of_other a (by rcases hregion with h | h | h <;> simp [h])
      (by rcases hregion with h | h | h <;> simp [h])
  all_goals
    simp only [not_or] at hport
    obtain ⟨hstatus, hdata, hchar⟩ := hport
    have hregion := busRegion_of_no_port s.cfg a hstatus hdata hchar
  · rw [if_pos hrom] at hregion
    exact s.peek_of_rom a _ hregion
  · rw [if_neg hrom, if_pos hram] at hregion
    exact s.peek_of_ram a _ hregion
  · rw [if_neg hrom, if_neg hram] at hregion
    exact s.peek_of_other a (by simp [hregion]) (by simp [hregion])

/-- The bus addresses from `lo` to `hi`, as the numbers of that range (log 22). -/
theorem busAddresses_filter (lo hi : Nibble) :
    busAddresses.filter (fun a => decide (lo.toNat ≤ a.toNat) && decide (a.toNat ≤ hi.toNat)) =
      ((List.range 16).filter fun n => decide (lo.toNat ≤ n) && decide (n ≤ hi.toNat)).map (BitVec.ofNat 4) := by
  have haddr : busAddresses = (List.range 16).map (BitVec.ofNat 4) := rfl
  rw [haddr, List.filter_map]
  refine congrArg _ (List.filter_congr fun n hn => ?_)
  have hlt : n % 16 = n := Nat.mod_eq_of_lt (List.mem_range.1 hn)
  simp [hlt]

/-- Settles O59: a query is answered, and the answer is all that changes. -/
theorem inspectionChangesNothing : Obligations.InspectionChangesNothing := by
  refine ⟨State.peek_eq, fun s q rest he => ⟨_, step_of_event s _ rest he, ?mem, ?regs, ?range⟩⟩
  case mem =>
    rintro rfl
    have haddr : ∀ a : Nibble, busAddresses[a.toNat]? = some a := by decide
    exact ⟨_, rfl, rfl, fun a => by rw [List.getElem?_map, haddr]; rfl⟩
  case regs =>
    rintro rfl
    exact ⟨_, rfl, rfl⟩
  case range =>
    rintro lo hi rfl
    rw [State.inspection, busAddresses_filter, List.map_map]
    rfl

end Sys2Proof.Machine
end

section
/-! Proofs about the invariant of the machine (spec/70_reset_and_hazards.md R145, with the bounds of 10_state.md R29 and
20_memory.md R39 to R47): every operation of the core and of the host keeps it, and so does every step. -/

namespace Sys2Proof.Machine

/-! Latches left empty (60_exceptions.md R138). -/

/-- With empty latches the invariant is that of the memories, the call stack, the fault latch and the registers. -/
theorem State.Inv.of_emptyLatches {s : State} (himem : s.imem.wf 16 = true) (hrom : s.rom.wf s.cfg.romSize = true)
    (hram : s.ram.wf s.cfg.ramSize = true) (hlen : s.progLen ≤ 16) (hstack : s.callStack.length ≤ s.cfg.callDepth)
    (hstops : s.fault ≠ .none → s.running = false) (hclear : s.fault = .none → s.faultPc = 0)
    (hf : s.fetchL = none) (hd : s.decodeL = none) (hx : s.executeL = none)
    (hsettled : s.settle = 0 → ∀ r, (s.regs.get r).floating = false) : s.Inv where
  imem_wf := himem
  rom_wf := hrom
  ram_wf := hram
  progLen_le := hlen
  stack_le := hstack
  fault_stops := hstops
  faultPc_clear := hclear
  stopped_empty _ := ⟨hf, hd, hx⟩
  execute_then_decode h := by simp [hx] at h
  decode_then_fetch h := by simp [hd] at h
  fetch_pc _ h := by simp [hf] at h
  decode_pc _ _ h := by simp [hd] at h
  execute_pc _ _ h := by simp [hx] at h
  fetch_word _ h := by simp [hf] at h
  decode_insn _ h := by simp [hd] at h
  execute_insn _ h := by simp [hx] at h
  execute_ops _ h := by simp [hx] at h
  settled := hsettled

/-- Emptying the latches keeps the invariant, wherever the `pc` goes and whether or not the core stops. -/
theorem State.Inv.flushTo {s : State} (h : s.Inv) (p : Nibble) (run : Bool) (hrun : run = true → s.running = true) :
    State.Inv { s.jumpTo p with running := run } :=
  .of_emptyLatches h.imem_wf h.rom_wf h.ram_wf h.progLen_le h.stack_le
    (fun hfault => Bool.eq_false_iff.2 fun hr => by simpa [hrun hr] using h.fault_stops hfault)
    h.faultPc_clear rfl rfl rfl h.settled

theorem State.Inv.jumpTo {s : State} (h : s.Inv) (p : Nibble) : (s.jumpTo p).Inv := h.flushTo p s.running id

theorem State.Inv.halt {s : State} (h : s.Inv) : s.halt.Inv := h.flushTo s.ownPc false nofun

theorem State.Inv.hostStop {s : State} (h : s.Inv) : s.hostStop.Inv := h.flushTo s.oldestPc false nofun

/-- A fault stops the core and latches its address (60_exceptions.md R119). -/
theorem State.Inv.raise {s : State} (h : s.Inv) {c : FaultCode} (hc : c ≠ .none) : (s.raise c).Inv :=
  { h.halt with
    fault_stops := fun _ => rfl
    faultPc_clear := fun hnone => absurd hnone hc }

theorem State.Inv.takeIrq {s : State} (h : s.Inv) : s.takeIrq.Inv := { h.jumpTo _ with }

/-! An instruction, from its changes to its end (00_scope.md R12). -/

theorem State.Inv.settleTick {s : State} (h : s.Inv) : s.settleTick.Inv :=
  { h with settled := fun hzero => s.settleTick_floating_of_le_one (Nat.sub_eq_zero_iff_le.1 hzero) }

/-- What an instruction changes before its end keeps the invariant. -/
theorem State.Inv.of_undisturbed {s u : State} (h : s.Inv) (hu : Undisturbed s u) : u.Inv := by
  have hfetch : ∀ a, u.fetch a = s.fetch a := fun a => State.fetch_congr s u a hu.imem hu.progLen
  constructor
  case ram_wf => rw [hu.cfg]; exact hu.ram_wf h.ram_wf
  case stack_le => rw [hu.cfg]; exact hu.stack_le h.stack_le
  case settled =>
    intro hzero r
    rw [hu.settle] at hzero
    exact hu.settled r (h.settled hzero r)
  all_goals simp only [hu.imem, hu.rom, hu.cfg, hu.progLen, hu.fault, hu.faultPc, hu.running, hu.pc, hu.fetchL,
    hu.decodeL, hu.executeL, hfetch]
  case imem_wf => exact h.imem_wf
  case rom_wf => exact h.rom_wf
  case progLen_le => exact h.progLen_le
  case fault_stops => exact h.fault_stops
  case faultPc_clear => exact h.faultPc_clear
  case stopped_empty => exact h.stopped_empty
  case execute_then_decode => exact h.execute_then_decode
  case decode_then_fetch => exact h.decode_then_fetch
  case fetch_pc => exact h.fetch_pc
  case decode_pc => exact h.decode_pc
  case execute_pc => exact h.execute_pc
  case fetch_word => exact h.fetch_word
  case decode_insn => exact h.decode_insn
  case execute_insn => exact h.execute_insn
  case execute_ops => exact h.execute_ops

/-- With F empty, D and X are (70 R145). -/
theorem State.Inv.latches_empty {s : State} (h : s.Inv) (hf : s.fetchL = none) :
    s.decodeL = none ∧ s.executeL = none := by
  have hd : s.decodeL = none := by simpa [hf] using h.decode_then_fetch
  exact ⟨hd, by simpa [hd] using h.execute_then_decode⟩

/-- Under Tick the entry of X retires; under Step, with empty latches, the `pc` goes on. -/
theorem State.Inv.next {s : State} (h : s.Inv) (hl : s.executeL.isSome = true ∨ s.fetchL = none) : s.next.Inv := by
  rcases hl with hx | hf
  · have hnext : s.next = { s with executeL := none } := by simp [State.next, hx]
    rw [hnext]
    exact { h with
      stopped_empty := fun hstop => (h.stopped_empty hstop).imp_right (And.imp_right fun _ => rfl)
      execute_then_decode := by simp
      execute_pc := by simp
      execute_insn := by simp
      execute_ops := by simp }
  · obtain ⟨hd, -⟩ := h.latches_empty hf
    exact .of_emptyLatches h.imem_wf h.rom_wf h.ram_wf h.progLen_le h.stack_le h.fault_stops h.faultPc_clear hf hd rfl
      h.settled

/-- The outcome is no next state but one that meets the invariant. -/
def KeepsInv (o : Host.Outcome State Fault Refusal) : Prop := ∀ t, o = .next t → t.Inv

theorem keepsInv_next {t : State} (h : t.Inv) : KeepsInv (.next t) := fun _ ht => Host.Outcome.next.inj ht ▸ h

theorem KeepsInv.ite {c : Prop} [Decidable c] {o p : Host.Outcome State Fault Refusal} (ho : c → KeepsInv o)
    (hp : KeepsInv p) : KeepsInv (if c then o else p) := by
  split
  · exact ho ‹_›
  · exact hp

/-- An instruction that X holds, or that runs with empty latches, keeps the invariant in each of its four ends. -/
theorem exec_keepsInv {s : State} (h : s.Inv) (hl : s.executeL.isSome = true ∨ s.fetchL = none) (i : Instr) :
    KeepsInv (exec i s) := by
  obtain ⟨u, hu, ⟨-, ho⟩ | ⟨-, p, ho⟩ | ⟨c, hc, ho⟩ | ⟨-, ho⟩⟩ := exec_ends i s
  all_goals
    have hinv := h.of_undisturbed hu
    rw [ho]
    apply keepsInv_next
  · exact hinv.next (by rwa [hu.executeL, hu.fetchL])
  · exact hinv.jumpTo p
  · exact hinv.raise hc
  · exact hinv.halt

theorem perform_keepsInv {s : State} (h : s.Inv) (hl : s.executeL.isSome = true ∨ s.fetchL = none) (d : Decoded) :
    KeepsInv (perform exec d s) := by
  cases d with
  | insn i => exact exec_keepsInv h hl i
  | illegal w => exact keepsInv_next (h.raise (by decide))
  | endMark => exact keepsInv_next h.halt

/-! Step and Tick (70 R141, R143). -/

theorem stepOnce_keepsInv {s : State} (h : s.Inv) (hf : s.fetchL = none) : KeepsInv (stepOnce exec s) := by
  cases hirq : s.irqPending with
  | true =>
    rw [stepOnce_of_irq exec s hirq]
    exact keepsInv_next h.settleTick.takeIrq
  | false =>
    rw [stepOnce_of_no_irq exec s hirq]
    exact perform_keepsInv h.settleTick (.inr hf) _

/-- A stage's entry holds what its address gives, and the addresses follow each other, after each has moved on. -/
theorem State.Inv.advanceStages {s : State} (h : s.Inv) (hrun : s.running = true) (f : RegFile)
    (done : Option Decoded) : (s.advanceStages f done).Inv := by
  rcases s.advanceStages_cases f done with ⟨-, hs⟩ | ⟨-, hs⟩
  · rwa [hs]
  rw [hs]
  exact { h with
    stopped_empty := fun hstop => absurd (hrun.symm.trans hstop) (by decide)
    execute_then_decode := by simpa using h.decode_then_fetch
    decode_then_fetch := fun _ => rfl
    fetch_pc := by rintro _ ⟨⟩; rfl
    decode_pc := by
      rintro d _ hd ⟨⟩
      obtain ⟨e, he, rfl⟩ := Option.map_eq_some_iff.1 hd
      exact h.fetch_pc e he
    execute_pc := by
      intro x d hx hd
      obtain ⟨n, hn, rfl⟩ := Option.map_eq_some_iff.1 hx
      obtain ⟨e, he, rfl⟩ := Option.map_eq_some_iff.1 hd
      exact h.decode_pc n e hn he
    fetch_word := by rintro _ ⟨⟩; rfl
    decode_insn := by
      intro d hd
      obtain ⟨e, he, rfl⟩ := Option.map_eq_some_iff.1 hd
      exact congrArg decodeFetched (h.fetch_word e he)
    execute_insn := by
      intro x hx
      obtain ⟨d, hd, rfl⟩ := Option.map_eq_some_iff.1 hx
      exact h.decode_insn d hd
    execute_ops := by
      intro x hx
      obtain ⟨d, -, rfl⟩ := Option.map_eq_some_iff.1 hx
      exact readOperands_regs f _ _ }

theorem executeStage_keepsInv {s : State} (h : s.Inv) (x : ExecuteEntry) (hx : s.executeL = some x) :
    KeepsInv (executeStage exec x s) := by
  obtain ⟨t, ht⟩ := perform_hasNext x.insn s
  have hinv : t.Inv := perform_keepsInv h (.inl (by simp [hx])) x.insn t ht
  rcases executeStage_cases ht with hv | ⟨hrun, -, hv⟩
  · rw [hv]
    exact keepsInv_next hinv
  · rw [hv]
    exact keepsInv_next (hinv.advanceStages hrun _ _)

theorem tick_keepsInv {s : State} (h : s.Inv) (hrun : s.running = true) : KeepsInv (tick exec s) := by
  cases hirq : s.irqPending with
  | true =>
    rw [tick_of_irq exec s hirq]
    exact keepsInv_next h.settleTick.takeIrq
  | false =>
    cases hx : s.executeL with
    | none =>
      rw [tick_of_empty exec s hirq hx]
      exact keepsInv_next (h.settleTick.advanceStages hrun _ _)
    | some x =>
      rw [tick_of_entry exec s x hirq hx]
      exact executeStage_keepsInv h.settleTick x hx

/-! The host's operations (70 R151). -/

theorem State.Inv.answer {s : State} (h : s.Inv) (r : Reply) : (s.answer r).Inv := { h with }

theorem State.Inv.guarded {s t : State} (h : s.Inv) {ok : Bool} (ht : ok = true → t.Inv) : (s.guarded ok t).Inv := by
  unfold State.guarded
  split
  · exact (ht ‹_›).answer _
  · exact h.answer _

/-- A reset leaves the memories, and no register floats when the counter starts at 0 (R139). -/
theorem State.Inv.hostReset {s : State} (h : s.Inv) : s.hostReset.Inv :=
  .of_emptyLatches h.imem_wf h.rom_wf h.ram_wf h.progLen_le (Nat.zero_le _) (fun _ => rfl) (fun _ => rfl) rfl rfl rfl
    fun hzero r => by
      have hzero : s.cfg.settleTicks = 0 := hzero
      cases r <;> simp [State.hostReset, RegFile.get, freshCell, hzero]

theorem State.Inv.loadProgram {s : State} (h : s.Inv) {words : List Word} {n : Nat}
    (hc : s.canLoadProgram words n = true) : (s.loadProgram words n).Inv := by
  obtain ⟨-, hn, hlen⟩ := (s.canLoadProgram_iff words n).1 hc
  exact .of_emptyLatches (Mem.wf_writeAll words s.imem 0 (by omega) h.imem_wf) h.rom_wf h.ram_wf hn h.stack_le
    h.fault_stops h.faultPc_clear rfl rfl rfl h.settled

theorem State.Inv.loadText {s : State} (h : s.Inv) (text : Text) : (s.loadText text).Inv := by
  unfold State.loadText
  split
  · exact h.answer _
  · exact h.guarded fun hc => { h.loadProgram hc with }

theorem State.Inv.loadRom {s : State} (h : s.Inv) {cells : List Nibble} (hc : cells.length = s.cfg.romSize) :
    (s.loadRom cells).Inv :=
  { h with rom_wf := Mem.wf_writeAll cells s.rom 0 (by rw [Nat.zero_add]; exact hc.le) h.rom_wf }

theorem State.Inv.startRun {s : State} (h : s.Inv) : s.startRun.Inv :=
  { h with
    fault_stops := fun hfault => absurd rfl hfault
    faultPc_clear := fun _ => rfl
    stopped_empty := nofun }

theorem State.Inv.hostSave {s : State} (h : s.Inv) (path : Text) (fails : Bool) : (s.hostSave path fails).Inv := by
  unfold State.hostSave
  split
  · exact h.answer _
  · split
    · exact h.answer _
    · exact { h with }

/-- A document's cells stay inside the memories, its call stack fits, and its registers do not float (R160). -/
theorem State.Inv.restore {s : State} (h : s.Inv) {d : Doc} (hd : d.accepted s.cfg = true) : (s.restore d).Inv := by
  obtain ⟨-, -, -, -, -, -, hstack, -⟩ := (d.accepted_iff s.cfg).1 hd
  exact .of_emptyLatches h.imem_wf (restoreRom_wf _ _ _ _ h.rom_wf) (restoreRam_wf _ _ _ _ h.ram_wf) h.progLen_le
    (by simpa [State.restore] using hstack) (fun hfault => absurd rfl hfault) (fun _ => rfl) rfl rfl rfl
    fun _ r => by cases r <;> rfl

theorem State.Inv.hostLoadState {s : State} (h : s.Inv) (path : Text) : (s.hostLoadState path).Inv := by
  unfold State.hostLoadState
  split
  · exact h.answer _
  · split
    · exact h.answer _
    · split
      · exact (h.restore ‹_›).answer _
      · exact h.answer _

/-- Every action of the host and of the terminal keeps the invariant. -/
theorem performEvent_keepsInv {s : State} (h : s.Inv) (e : Event) : KeepsInv (performEvent exec e s) := by
  have hfails := keepsInv_next (h.answer .preconditionFailed)
  have hok := h.answer .ok
  cases e with
  | reset => exact keepsInv_next (h.hostReset.answer _)
  | loadProgram words n => exact keepsInv_next (h.guarded h.loadProgram)
  | loadText text => exact keepsInv_next (h.loadText text)
  | loadRom cells => exact keepsInv_next (h.guarded fun hc => h.loadRom (beq_iff_eq.1 (Bool.and_eq_true_iff.1 hc).2))
  | run => exact keepsInv_next (h.startRun.answer _)
  | stop => exact keepsInv_next (h.hostStop.answer _)
  | tick =>
    refine .ite (fun hc => ?_) hfails
    obtain ⟨hrun, -⟩ := s.canTick_iff.1 hc
    exact tick_keepsInv hok hrun
  | step =>
    refine .ite (fun hc => ?_) hfails
    obtain ⟨-, -, hf, -⟩ := s.canStep_iff.1 hc
    exact stepOnce_keepsInv hok hf
  | direct i =>
    refine .ite (fun hc => ?_) hfails
    obtain ⟨hstep, -⟩ := Bool.and_eq_true_iff.1 hc
    obtain ⟨-, -, hf, -⟩ := s.canStep_iff.1 hstep
    exact exec_keepsInv hok.settleTick (.inr hf) i
  | save path fails => exact keepsInv_next (h.hostSave path fails)
  | loadState path => exact keepsInv_next (h.hostLoadState path)
  | inspect q => exact keepsInv_next (h.answer _)
  | raiseIrq | setIrqMask | setIrqEnabled | other | key => exact keepsInv_next { h with }

/-- Settles O52: a step is an action that is pending, a Tick of the run loop, or nothing. -/
theorem everyStepKeepsTheInvariant : Obligations.EveryStepKeepsTheInvariant := by
  intro s t h ht
  cases he : s.events with
  | cons e rest =>
    rw [step_of_event s e rest he] at ht
    have hinv : State.Inv { s with events := rest } := { h with }
    exact performEvent_keepsInv hinv e t ht
  | nil =>
    cases hc : s.canTick with
    | true =>
      obtain ⟨hrun, -⟩ := s.canTick_iff.1 hc
      rw [step_of_run_loop s he hc] at ht
      exact tick_keepsInv h hrun t ht
    | false =>
      rw [step_of_idle s he hc] at ht
      exact Host.Outcome.next.inj ht ▸ h

end Sys2Proof.Machine
end
